-- ==== Sys2Proof/Word.lean ====
section
/-! DEFINITION. The word types of the PTP servo engine (spec/00_scope.md R9, R10; spec/10_state.md R21, R22).
Only names for widths stand here: every operation on them is in Decode.lean or directly under Machine/. -/

namespace Sys2Proof

/-- One byte of the message buffer (R41). -/
abbrev Byte := BitVec 8

/-- A 32-bit command word, the low half of a host write to `CMD` (R100). -/
abbrev CommandWord := BitVec 32

/-- A CSR number: 12 bits (R7 `CSR_BITS`, R70). -/
abbrev CsrNumber := BitVec 12

/-- The 64-bit value of a CSR (R29). -/
abbrev Reg := BitVec 64

/-- A TimeInterval: raw two's-complement signed 64-bit fixed point, 16 fraction bits (R10).
Its numeric value in units of 2^-16 ns is `toInt`. -/
abbrev TimeInterval := BitVec 64

/-- A clock-domain number (R328). -/
abbrev Domain := BitVec 8

end Sys2Proof
end

