-- ==== Sys2Proof/Config.lean ====
section
/-! DEFINITION. What the spec leaves to the implementation or to the environment, as constants without a body:
no proof can see their values, so a claim holds for every value (spec/93_implementation_defined.md I1, I2, I3). -/

namespace Sys2Proof

/-- The answer `(t, n)` of the clock-control port to `get_time` (R329): `t` is any well-formed Timestamp, which is why the
nanoseconds are below 10^9 by their type, and `n` any 64-bit tick count. -/
structure PortAnswer where
  secMsb : BitVec 16
  sec    : BitVec 32
  ns     : Fin 1000000000
  frac   : BitVec 16
  tick   : Reg
  deriving DecidableEq, Repr, Inhabited

/-- `TICK_US - 1`, where `TICK_US ≥ 1` is the duration of one timer tick in microseconds (R7, R8, R396, decision D44 `OPEN`).
Assumption log 1. -/
opaque Config.tickUsPred : Nat

/-- The `k`-th answer the port draws for `get_time` when no answer is scheduled in `Inputs.answers` (R329: a free draw).
Assumption log 2. -/
opaque Config.portAnswer : Nat → PortAnswer

/-- What byte `a` of `BUF` holds after power-on number `e`, as long as nothing has written it (R41, R43, R381: "a model gives
each byte an arbitrary value at power-on"). Assumption log 3. -/
opaque Config.powerOnByte : Nat → Nat → Byte

end Sys2Proof
end

