-- ==== Sys2Proof/Syntax.lean ====
section
/-! DEFINITION. The 47 commands of spec/30_encoding.md R104, one constructor per row of spec/opcode_table.json, and the three
transactions of the host interface (spec/46_system.md R342). An operand's type is the range of its kind (R101), so a term with an
operand above its range cannot be written; the check on command words is in WellFormed.lean. -/

namespace Sys2Proof

/-- Kind `ti` (R101): a TimeInterval register index, 0..7. -/
abbrev TiReg := Fin 8
/-- Kind `ts` (R101): a Timestamp register index, 0..3. -/
abbrev TsReg := Fin 4
/-- Kind `pid` (R101): a port-identity register index, 0..1. -/
abbrev PidReg := Fin 2
/-- Kind `ctx` (R101): a servo context, 0..1. -/
abbrev CtxId := Fin 2
/-- Kind `flt` (R101): a filter of a context, 0 delay, 1 offset. -/
abbrev FltId := Fin 2
/-- Kind `tmr` (R101): a timer, 0..7. -/
abbrev TmrId := Fin 8

/-- The commands of R104. Arguments stand in the order `a`, `b`, `c`, `imm` of the command word, unused fields left out (R107). -/
inductive Instr where
  -- System (46_system.md)
  | nop
  -- TimeValue unit, TimeIntervals (40_timevalue.md)
  | tiMov (dst src : TiReg)
  | tiAdd (dst src1 src2 : TiReg)
  | tiSub (dst src1 src2 : TiReg)
  | tiNeg (dst src : TiReg)
  | tiAbs (dst src : TiReg)
  | tiHalf (dst src : TiReg)
  | tiFromNs (dst src : TiReg)
  | tiToNs (dst src : TiReg)
  | tiCmp (src1 src2 : TiReg)
  | tiMulI (dst src : TiReg) (imm : BitVec 12)
  | tiDivI (dst src : TiReg) (imm : BitVec 12)
  -- TimeValue unit, Timestamps (40_timevalue.md)
  | tsMov (dst src : TsReg)
  | tsSub (dst : TiReg) (src1 src2 : TsReg)
  | tsAddI (dst src : TsReg) (val : TiReg)
  | tsDiffC (dst : TiReg) (src1 src2 : TsReg) (corr : TiReg)
  -- Filter unit (42_filter.md)
  | fltReset (ctx : CtxId) (flt : FltId)
  | fltStep (ctx : CtxId) (flt : FltId) (src dst : TiReg)
  -- Servo unit (44_servo.md)
  | svReset (ctx : CtxId)
  | svDelay (ctx : CtxId) (send recv : TsReg) (corr : TiReg)
  | svOffset (ctx : CtxId) (send recv : TsReg) (corr : TiReg)
  | svPid (ctx : CtxId) (off : TiReg) (now : TsReg)
  | svSwitch
  | svLost (ctx : CtxId)
  | svStat (ctx : CtxId)
  -- Codec unit (43_codec.md)
  | pkHdr
  | upHdr
  | pkTs (src : TsReg)
  | upTs (dst : TsReg)
  | pkPd (src : TsReg) (pid : PidReg)
  | upPd (dst : TsReg) (pid : PidReg)
  | pkAnn (origin : TsReg)
  | upAnn (dst : TsReg)
  | pkSig (pid : PidReg)
  | upSig (pid : PidReg)
  | pkTlv
  | upTlv
  -- Clock-control port (45_clock_control.md)
  | ccFreq (ratio : TiReg) (dom : Domain)
  | ccSetTime (time : TsReg) (dom : Domain)
  | ccDelta (delta : TiReg) (dom : Domain)
  | ccPhase (ns : TiReg) (dom : Domain)
  | ccGetTime (dst : TsReg) (dom : Domain)
  -- Timer unit (41_timer.md)
  | tmInit (tmr : TmrId) (inst : BitVec 8)
  | tmStart (tmr : TmrId) (ticks : TiReg) (rep : Bool)
  | tmStop (tmr : TmrId)
  | tmTick (now : TiReg)
  -- System (46_system.md)
  | sysReset
  deriving DecidableEq, Repr

/-- The host's transactions (R342): the unit of one step. -/
inductive Txn where
  /-- `rd n`: reads the CSR numbered `n`. -/
  | rd (n : CsrNumber)
  /-- `wr n, v`: writes the CSR numbered `n`; `wr CMD, v` runs a command. -/
  | wr (n : CsrNumber) (v : Reg)
  /-- `reset`: the reset transaction, which also stands for power-on (R380). -/
  | reset
  deriving DecidableEq, Repr

end Sys2Proof
end

