-- ==== Sys2Proof/WellFormed.lean ====
section
/-! DEFINITION. When a command word is well formed: the opcode table of spec/30_encoding.md R104 as data, and the three checks of
R103 on a word. A term of `Instr` carries its operands' ranges in its types (Syntax.lean), so the checks are on words: the word's
opcode is in the table, no bit outside the used fields is set, no operand field exceeds the range of its kind. -/

namespace Sys2Proof

/-- The operand kinds of a 4-bit field (R101). -/
inductive Kind where
  | ti | ts | pid | ctx | flt | tmr | flag
  deriving DecidableEq, Repr

/-- How many low bits of its field a kind uses: its legal values are `0 .. 2^bits - 1` (R101). -/
def Kind.bits : Kind → Nat
  | .ti | .tmr => 3
  | .ts => 2
  | .pid | .ctx | .flt | .flag => 1

/-- How a format uses `imm[11:0]` (R100, R102): not at all, as a `ti` index in `imm[2:0]`, as `imm[7:0]`, or whole. -/
inductive ImmUse where
  | unused | ti3 | imm8 | imm12
  deriving DecidableEq, Repr

/-- How many low bits of `imm` are used. -/
def ImmUse.bits : ImmUse → Nat
  | .unused => 0
  | .ti3 => 3
  | .imm8 => 8
  | .imm12 => 12

/-- One row of R104: the opcode and which fields the command uses, each with its kind. -/
structure OpRow where
  op  : BitVec 8
  a   : Option Kind
  b   : Option Kind
  c   : Option Kind
  imm : ImmUse
  deriving DecidableEq, Repr

/-- System and TimeValue rows of R104. -/
def tableTimeValue : List OpRow := [
  ⟨0x00, none, none, none, .unused⟩, -- NOP (Z) R340
  ⟨0x01, some .ti, some .ti, none, .unused⟩, -- TI.MOV (AB) R131
  ⟨0x02, some .ti, some .ti, some .ti, .unused⟩, -- TI.ADD (ABC) R132
  ⟨0x03, some .ti, some .ti, some .ti, .unused⟩, -- TI.SUB (ABC) R133
  ⟨0x04, some .ti, some .ti, none, .unused⟩, -- TI.NEG (AB) R134
  ⟨0x05, some .ti, some .ti, none, .unused⟩, -- TI.ABS (AB) R135
  ⟨0x06, some .ti, some .ti, none, .unused⟩, -- TI.HALF (AB) R136
  ⟨0x07, some .ti, some .ti, none, .unused⟩, -- TI.FROMNS (AB) R137
  ⟨0x08, some .ti, some .ti, none, .unused⟩, -- TI.TONS (AB) R138
  ⟨0x09, none, some .ti, some .ti, .unused⟩, -- TI.CMP (BC) R139
  ⟨0x0A, some .ti, some .ti, none, .imm12⟩, -- TI.MULI (ABI12) R140
  ⟨0x0B, some .ti, some .ti, none, .imm12⟩, -- TI.DIVI (ABI12) R141
  ⟨0x10, some .ts, some .ts, none, .unused⟩, -- TS.MOV (AB) R145
  ⟨0x11, some .ti, some .ts, some .ts, .unused⟩, -- TS.SUB (ABC) R146
  ⟨0x12, some .ts, some .ts, some .ti, .unused⟩, -- TS.ADDI (ABC) R147
  ⟨0x13, some .ti, some .ts, some .ts, .ti3⟩ -- TS.DIFFC (ABCI3) R148
  ]

/-- Filter and Servo rows of R104. -/
def tableFilterServo : List OpRow := [
  ⟨0x20, some .ctx, some .flt, none, .unused⟩, -- FLT.RESET (AB) R195
  ⟨0x21, some .ctx, some .flt, some .ti, .ti3⟩, -- FLT.STEP (ABCI3) R196
  ⟨0x30, some .ctx, none, none, .unused⟩, -- SV.RESET (A) R264
  ⟨0x31, some .ctx, some .ts, some .ts, .ti3⟩, -- SV.DELAY (ABCI3) R266
  ⟨0x32, some .ctx, some .ts, some .ts, .ti3⟩, -- SV.OFFSET (ABCI3) R270
  ⟨0x33, some .ctx, some .ti, some .ts, .unused⟩, -- SV.PID (ABC) R280
  ⟨0x34, none, none, none, .unused⟩, -- SV.SWITCH (Z) R290
  ⟨0x35, some .ctx, none, none, .unused⟩, -- SV.LOST (A) R292
  ⟨0x36, some .ctx, none, none, .unused⟩ -- SV.STAT (A) R294
  ]

/-- Codec rows of R104. -/
def tableCodec : List OpRow := [
  ⟨0x40, none, none, none, .unused⟩, -- PK.HDR (Z) R215
  ⟨0x41, none, none, none, .unused⟩, -- UP.HDR (Z) R216
  ⟨0x42, none, some .ts, none, .unused⟩, -- PK.TS (B) R220
  ⟨0x43, some .ts, none, none, .unused⟩, -- UP.TS (A) R221
  ⟨0x44, none, some .ts, some .pid, .unused⟩, -- PK.PD (BC) R224
  ⟨0x45, some .ts, none, some .pid, .unused⟩, -- UP.PD (AC) R225
  ⟨0x46, none, some .ts, none, .unused⟩, -- PK.ANN (B) R230
  ⟨0x47, some .ts, none, none, .unused⟩, -- UP.ANN (A) R234
  ⟨0x48, none, none, some .pid, .unused⟩, -- PK.SIG (C) R238
  ⟨0x49, none, none, some .pid, .unused⟩, -- UP.SIG (C) R239
  ⟨0x4A, none, none, none, .unused⟩, -- PK.TLV (Z) R242
  ⟨0x4B, none, none, none, .unused⟩ -- UP.TLV (Z) R243
  ]

/-- Clock-control, Timer and last System rows of R104. -/
def tablePortTimer : List OpRow := [
  ⟨0x50, none, some .ti, none, .imm8⟩, -- CC.FREQ (BI8) R322
  ⟨0x51, none, some .ts, none, .imm8⟩, -- CC.SETTIME (BI8) R323
  ⟨0x52, none, some .ti, none, .imm8⟩, -- CC.DELTA (BI8) R324
  ⟨0x53, none, some .ti, none, .imm8⟩, -- CC.PHASE (BI8) R325
  ⟨0x54, some .ts, none, none, .imm8⟩, -- CC.GETTIME (AI8) R326
  ⟨0x60, some .tmr, none, none, .imm8⟩, -- TM.INIT (AI8) R172
  ⟨0x61, some .tmr, some .ti, some .flag, .unused⟩, -- TM.START (ABC) R174
  ⟨0x62, some .tmr, none, none, .unused⟩, -- TM.STOP (A) R176
  ⟨0x63, none, some .ti, none, .unused⟩, -- TM.TICK (B) R178
  ⟨0x7F, none, none, none, .unused⟩ -- SYS.RESET (Z) R341
  ]

/-- The opcode map of R104, 47 rows. -/
def opTable : List OpRow :=
  tableTimeValue ++ tableFilterServo ++ tableCodec ++ tablePortTimer

/-- The bits of a 4-bit field at `sh` that must be zero because the format does not use the field (R100). -/
def unusedBits (sh : Nat) : Option Kind → CommandWord
  | none => 0xF#32 <<< sh
  | some _ => 0

/-- The high bits of a used 4-bit field at `sh` that must be zero for its value to be in the range of its kind (R101). -/
def rangeBits (sh : Nat) : Option Kind → CommandWord
  | none => 0
  | some k => ((0xF#32 >>> k.bits) <<< k.bits) <<< sh

/-- All the bits a row leaves unused (R100): whole fields, and the high bits of `imm`. -/
def OpRow.unusedMask (r : OpRow) : CommandWord :=
  unusedBits 20 r.a ||| unusedBits 16 r.b ||| unusedBits 12 r.c ||| ((0xFFF#32 >>> r.imm.bits) <<< r.imm.bits)

/-- All the bits above the range of a used field's kind (R101). -/
def OpRow.rangeMask (r : OpRow) : CommandWord :=
  rangeBits 20 r.a ||| rangeBits 16 r.b ||| rangeBits 12 r.c

/-- The row's `match` of R105: `op << 24`. -/
def OpRow.pattern (r : OpRow) : CommandWord := r.op.setWidth 32 <<< 24

/-- The row's `mask` of R105: all bits of `op`, all bits of every unused field, and the high bits of each used field above its
kind's range. -/
def OpRow.mask (r : OpRow) : CommandWord := 0xFF000000#32 ||| r.unusedMask ||| r.rangeMask

/-- First check of R103: the opcode of the word is that of the row. -/
def OpRow.opMatches (r : OpRow) (w : CommandWord) : Bool := w &&& 0xFF000000#32 == r.pattern

/-- Second check of R103: no bit outside `op` and the used fields is 1. -/
def OpRow.unusedClear (r : OpRow) (w : CommandWord) : Bool := w &&& r.unusedMask == 0

/-- Third check of R103: no operand field exceeds the range of its kind. -/
def OpRow.operandsInRange (r : OpRow) (w : CommandWord) : Bool := w &&& r.rangeMask == 0

/-- A word is well formed, "legal" in R103, when some row of the table passes all three checks. -/
def wellFormedWord (w : CommandWord) : Bool :=
  opTable.any fun r => r.opMatches w && r.unusedClear w && r.operandsInRange w

/-- The same by the procedure of R105: `w & mask = match` for a row of the table. -/
def legalByMask (w : CommandWord) : Bool :=
  opTable.any fun r => w &&& r.mask == r.pattern

end Sys2Proof
end

