-- ==== Sys2Proof/Decode.lean ====
section
/-! DEFINITION. The decoder of command words (spec/30_encoding.md R100 to R106), total on any word, and after it the encoder,
written from the same table. A command word is the data of a host write to `CMD`: it is not fetched from a memory (R93). -/

namespace Sys2Proof

/-- The five fields of the one command layout of R100. -/
structure Fields where
  op  : BitVec 8
  a   : BitVec 4
  b   : BitVec 4
  c   : BitVec 4
  imm : BitVec 12
  deriving DecidableEq, Repr

/-- Takes a command word apart (R100). -/
def fieldsOf (w : CommandWord) : Fields where
  op  := w.extractLsb' 24 8
  a   := w.extractLsb' 20 4
  b   := w.extractLsb' 16 4
  c   := w.extractLsb' 12 4
  imm := w.extractLsb' 0 12

/-- Puts a command word together: `op << 24 | a << 20 | b << 16 | c << 12 | imm` (R100, the example of R105). -/
def wordOf (f : Fields) : CommandWord :=
  f.op.setWidth 32 <<< 24 ||| f.a.setWidth 32 <<< 20 ||| f.b.setWidth 32 <<< 16 ||| f.c.setWidth 32 <<< 12 ||| f.imm.setWidth 32

/-- An operand field read as an index of a kind with `n` values; a value above the range is refused (R101, R103). -/
def index (n : Nat) {w : Nat} (f : BitVec w) : Option (Fin n) :=
  if h : f.toNat < n then some ⟨f.toNat, h⟩ else none

/-- A term in case all the bits the format does not use are zero (R100). -/
def provided (unusedZero : Bool) (i : Option Instr) : Option Instr :=
  if unusedZero then i else none

/-- Format `Z`: no field used. -/
def fmtZ (mk : Instr) (f : Fields) : Option Instr :=
  provided (f.a == 0 && f.b == 0 && f.c == 0 && f.imm == 0) (some mk)

/-- Format `A`. -/
def fmtA (m : Nat) (mk : Fin m → Instr) (f : Fields) : Option Instr :=
  provided (f.b == 0 && f.c == 0 && f.imm == 0) ((index m f.a).map mk)

/-- Format `B`. -/
def fmtB (m : Nat) (mk : Fin m → Instr) (f : Fields) : Option Instr :=
  provided (f.a == 0 && f.c == 0 && f.imm == 0) ((index m f.b).map mk)

/-- Format `C`. -/
def fmtC (m : Nat) (mk : Fin m → Instr) (f : Fields) : Option Instr :=
  provided (f.a == 0 && f.b == 0 && f.imm == 0) ((index m f.c).map mk)

/-- Format `AB`. -/
def fmtAB (m n : Nat) (mk : Fin m → Fin n → Instr) (f : Fields) : Option Instr :=
  provided (f.c == 0 && f.imm == 0)
    ((index m f.a).bind fun x => (index n f.b).map fun y => mk x y)

/-- Format `BC`. -/
def fmtBC (m n : Nat) (mk : Fin m → Fin n → Instr) (f : Fields) : Option Instr :=
  provided (f.a == 0 && f.imm == 0)
    ((index m f.b).bind fun x => (index n f.c).map fun y => mk x y)

/-- Format `AC`. -/
def fmtAC (m n : Nat) (mk : Fin m → Fin n → Instr) (f : Fields) : Option Instr :=
  provided (f.b == 0 && f.imm == 0)
    ((index m f.a).bind fun x => (index n f.c).map fun y => mk x y)

/-- Format `ABC`. -/
def fmtABC (m n k : Nat) (mk : Fin m → Fin n → Fin k → Instr) (f : Fields) : Option Instr :=
  provided (f.imm == 0)
    ((index m f.a).bind fun x => (index n f.b).bind fun y => (index k f.c).map fun z => mk x y z)

/-- Format `ABI12`: `imm[11:0]` is an unsigned integer (R102). -/
def fmtABI12 (m n : Nat) (mk : Fin m → Fin n → BitVec 12 → Instr) (f : Fields) : Option Instr :=
  provided (f.c == 0)
    ((index m f.a).bind fun x => (index n f.b).map fun y => mk x y f.imm)

/-- Format `ABCI3`: `imm[2:0]` is a `ti` index and `imm[11:3]` must be zero (R102). -/
def fmtABCI3 (m n k : Nat) (mk : Fin m → Fin n → Fin k → TiReg → Instr) (f : Fields) : Option Instr :=
  (index m f.a).bind fun x => (index n f.b).bind fun y => (index k f.c).bind fun z =>
    (index 8 f.imm).map fun t => mk x y z t

/-- Format `AI8`: `imm[7:0]`, and `imm[11:8]` must be zero (R102). -/
def fmtAI8 (m : Nat) (mk : Fin m → BitVec 8 → Instr) (f : Fields) : Option Instr :=
  provided (f.b == 0 && f.c == 0 && f.imm.extractLsb' 8 4 == 0)
    ((index m f.a).map fun x => mk x (f.imm.extractLsb' 0 8))

/-- Format `BI8`. -/
def fmtBI8 (m : Nat) (mk : Fin m → BitVec 8 → Instr) (f : Fields) : Option Instr :=
  provided (f.a == 0 && f.c == 0 && f.imm.extractLsb' 8 4 == 0)
    ((index m f.b).map fun x => mk x (f.imm.extractLsb' 0 8))

/-- The row of R104 that the opcode selects, applied to the operand fields; `none` for a reserved opcode (R103). -/
def decodeFields (f : Fields) : Option Instr :=
  match f.op.toNat with
  | 0x00 => fmtZ .nop f
  | 0x01 => fmtAB 8 8 .tiMov f
  | 0x02 => fmtABC 8 8 8 .tiAdd f
  | 0x03 => fmtABC 8 8 8 .tiSub f
  | 0x04 => fmtAB 8 8 .tiNeg f
  | 0x05 => fmtAB 8 8 .tiAbs f
  | 0x06 => fmtAB 8 8 .tiHalf f
  | 0x07 => fmtAB 8 8 .tiFromNs f
  | 0x08 => fmtAB 8 8 .tiToNs f
  | 0x09 => fmtBC 8 8 .tiCmp f
  | 0x0A => fmtABI12 8 8 .tiMulI f
  | 0x0B => fmtABI12 8 8 .tiDivI f
  | 0x10 => fmtAB 4 4 .tsMov f
  | 0x11 => fmtABC 8 4 4 .tsSub f
  | 0x12 => fmtABC 4 4 8 .tsAddI f
  | 0x13 => fmtABCI3 8 4 4 .tsDiffC f
  | 0x20 => fmtAB 2 2 .fltReset f
  | 0x21 => fmtABCI3 2 2 8 .fltStep f
  | 0x30 => fmtA 2 .svReset f
  | 0x31 => fmtABCI3 2 4 4 .svDelay f
  | 0x32 => fmtABCI3 2 4 4 .svOffset f
  | 0x33 => fmtABC 2 8 4 .svPid f
  | 0x34 => fmtZ .svSwitch f
  | 0x35 => fmtA 2 .svLost f
  | 0x36 => fmtA 2 .svStat f
  | 0x40 => fmtZ .pkHdr f
  | 0x41 => fmtZ .upHdr f
  | 0x42 => fmtB 4 .pkTs f
  | 0x43 => fmtA 4 .upTs f
  | 0x44 => fmtBC 4 2 .pkPd f
  | 0x45 => fmtAC 4 2 .upPd f
  | 0x46 => fmtB 4 .pkAnn f
  | 0x47 => fmtA 4 .upAnn f
  | 0x48 => fmtC 2 .pkSig f
  | 0x49 => fmtC 2 .upSig f
  | 0x4A => fmtZ .pkTlv f
  | 0x4B => fmtZ .upTlv f
  | 0x50 => fmtBI8 8 .ccFreq f
  | 0x51 => fmtBI8 4 .ccSetTime f
  | 0x52 => fmtBI8 8 .ccDelta f
  | 0x53 => fmtBI8 8 .ccPhase f
  | 0x54 => fmtAI8 4 .ccGetTime f
  | 0x60 => fmtAI8 8 .tmInit f
  | 0x61 => fmtABC 8 8 2 (fun t n r => .tmStart t n (r == 1)) f
  | 0x62 => fmtA 8 .tmStop f
  | 0x63 => fmtB 8 .tmTick f
  | 0x7F => fmtZ .sysReset f
  | _ => none

/-- The decoding procedure of R105; `none` says that the word is illegal (R103). -/
def decode (w : CommandWord) : Option Instr := decodeFields (fieldsOf w)

/-- The command word the host's opcode table numbers `w`, given to the decoder: one 32-bit word, so `nbits` is 32 for every row. -/
def decodeTableWord (nbits w : Nat) : Option Instr := decode (BitVec.ofNat 32 (w % 2 ^ nbits))

/-! The encoder. -/

/-- An index as a 4-bit operand field. -/
def field {n : Nat} (x : Fin n) : BitVec 4 := BitVec.ofNat 4 x.val

/-- An index in `imm[2:0]`. -/
def immTi (x : TiReg) : BitVec 12 := BitVec.ofNat 12 x.val

/-- The fields of each command, from the operand columns of R104. -/
def encodeFields : Instr → Fields
  | .nop => ⟨0x00, 0, 0, 0, 0⟩
  | .tiMov d a => ⟨0x01, field d, field a, 0, 0⟩
  | .tiAdd d a b => ⟨0x02, field d, field a, field b, 0⟩
  | .tiSub d a b => ⟨0x03, field d, field a, field b, 0⟩
  | .tiNeg d a => ⟨0x04, field d, field a, 0, 0⟩
  | .tiAbs d a => ⟨0x05, field d, field a, 0, 0⟩
  | .tiHalf d a => ⟨0x06, field d, field a, 0, 0⟩
  | .tiFromNs d a => ⟨0x07, field d, field a, 0, 0⟩
  | .tiToNs d a => ⟨0x08, field d, field a, 0, 0⟩
  | .tiCmp a b => ⟨0x09, 0, field a, field b, 0⟩
  | .tiMulI d a i => ⟨0x0A, field d, field a, 0, i⟩
  | .tiDivI d a i => ⟨0x0B, field d, field a, 0, i⟩
  | .tsMov d a => ⟨0x10, field d, field a, 0, 0⟩
  | .tsSub d a b => ⟨0x11, field d, field a, field b, 0⟩
  | .tsAddI d a v => ⟨0x12, field d, field a, field v, 0⟩
  | .tsDiffC d a b c => ⟨0x13, field d, field a, field b, immTi c⟩
  | .fltReset x y => ⟨0x20, field x, field y, 0, 0⟩
  | .fltStep x y a d => ⟨0x21, field x, field y, field a, immTi d⟩
  | .svReset x => ⟨0x30, field x, 0, 0, 0⟩
  | .svDelay x a b c => ⟨0x31, field x, field a, field b, immTi c⟩
  | .svOffset x a b c => ⟨0x32, field x, field a, field b, immTi c⟩
  | .svPid x o n => ⟨0x33, field x, field o, field n, 0⟩
  | .svSwitch => ⟨0x34, 0, 0, 0, 0⟩
  | .svLost x => ⟨0x35, field x, 0, 0, 0⟩
  | .svStat x => ⟨0x36, field x, 0, 0, 0⟩
  | .pkHdr => ⟨0x40, 0, 0, 0, 0⟩
  | .upHdr => ⟨0x41, 0, 0, 0, 0⟩
  | .pkTs a => ⟨0x42, 0, field a, 0, 0⟩
  | .upTs d => ⟨0x43, field d, 0, 0, 0⟩
  | .pkPd a p => ⟨0x44, 0, field a, field p, 0⟩
  | .upPd d p => ⟨0x45, field d, 0, field p, 0⟩
  | .pkAnn a => ⟨0x46, 0, field a, 0, 0⟩
  | .upAnn d => ⟨0x47, field d, 0, 0, 0⟩
  | .pkSig p => ⟨0x48, 0, 0, field p, 0⟩
  | .upSig p => ⟨0x49, 0, 0, field p, 0⟩
  | .pkTlv => ⟨0x4A, 0, 0, 0, 0⟩
  | .upTlv => ⟨0x4B, 0, 0, 0, 0⟩
  | .ccFreq a m => ⟨0x50, 0, field a, 0, m.setWidth 12⟩
  | .ccSetTime a m => ⟨0x51, 0, field a, 0, m.setWidth 12⟩
  | .ccDelta a m => ⟨0x52, 0, field a, 0, m.setWidth 12⟩
  | .ccPhase a m => ⟨0x53, 0, field a, 0, m.setWidth 12⟩
  | .ccGetTime d m => ⟨0x54, field d, 0, 0, m.setWidth 12⟩
  | .tmInit t i => ⟨0x60, field t, 0, 0, i.setWidth 12⟩
  | .tmStart t a r => ⟨0x61, field t, field a, if r then 1 else 0, 0⟩
  | .tmStop t => ⟨0x62, field t, 0, 0, 0⟩
  | .tmTick a => ⟨0x63, 0, field a, 0, 0⟩
  | .sysReset => ⟨0x7F, 0, 0, 0, 0⟩

/-- The command word of an instruction (R100, R104). -/
def encode (i : Instr) : CommandWord := wordOf (encodeFields i)

/-- The five pseudo-instructions of R108, each as the transactions it expands to. -/
def pseudoTiZero (d : TiReg) : List Txn := [.wr 0x000 ((encode (.tiSub d d d)).setWidth 64)]

/-- `TI.LI tiD, v` (R108): `wr TID, v`. -/
def pseudoTiLi (d : TiReg) (v : Reg) : List Txn := [.wr (0x010 + BitVec.ofNat 12 d.val) v]

/-- `TS.LI tsD, secs, ns, frac` (R108): `wr TSD_HI, secs` then `wr TSD_LO, (ns << 32) | frac`. -/
def pseudoTsLi (d : TsReg) (secs : BitVec 48) (ns : BitVec 32) (frac : BitVec 16) : List Txn :=
  [.wr (0x021 + BitVec.ofNat 12 (2 * d.val)) (secs.setWidth 64),
   .wr (0x020 + BitVec.ofNat 12 (2 * d.val)) (ns.setWidth 64 <<< 32 ||| frac.setWidth 64)]

/-- `DELAY.FILTER cX, tiD, tiS` (R108): `FLT.STEP cX, f0, tiS, tiD`. -/
def pseudoDelayFilter (x : CtxId) (d a : TiReg) : List Txn := [.wr 0x000 ((encode (.fltStep x 0 a d)).setWidth 64)]

/-- `OFFSET.FILTER cX, tiD, tiS` (R108): `FLT.STEP cX, f1, tiS, tiD`. -/
def pseudoOffsetFilter (x : CtxId) (d a : TiReg) : List Txn := [.wr 0x000 ((encode (.fltStep x 1 a d)).setWidth 64)]

end Sys2Proof
end

