-- ==== Sys2Proof/Machine/State.lean ====
section
/-! DEFINITION. The state of the engine (spec/10_state.md R20 to R43) as plain data, and its value after reset (R43).
One field for each CSR, under the CSR's own name, or one structure for a CSR whose bits are separate fields; only defined bits are
stored, because undefined bits always read zero (R29). The CSR numbers are in Machine/Csr.lean. -/

namespace Sys2Proof.Machine

/-- A Timestamp (R22). A point in time only when `ns < 10^9` (R13); a register may hold any value. -/
structure Timestamp where
  secMsb : BitVec 16
  sec    : BitVec 32
  ns     : BitVec 32
  frac   : BitVec 16
  deriving DecidableEq, Repr

/-- A port identity (R23): clock identity, first wire byte in bits 63..56, and port number. -/
structure PortId where
  cid  : Reg
  port : BitVec 16
  deriving DecidableEq, Repr

/-- The stored bits 15..0 of `STATUS` (R25); bits 24..16 are a live view, computed when `STATUS` is read. -/
structure Status where
  ok    : Bool
  valid : Bool
  lt    : Bool
  eq    : Bool
  err   : BitVec 8
  deriving DecidableEq, Repr

/-- The header registers (R30): `HDR_TYPE` (four nibbles), then `HDR_LEN` to `HDR_LOGINT`. -/
structure Header where
  msgType   : BitVec 4
  transport : BitVec 4
  version   : BitVec 4
  minor     : BitVec 4
  length    : BitVec 16
  domain    : BitVec 8
  flags     : BitVec 16
  corr      : TimeInterval
  srcCid    : Reg
  srcPort   : BitVec 16
  seq       : BitVec 16
  ctrl      : BitVec 8
  logInt    : BitVec 8
  deriving DecidableEq, Repr

/-- The Announce registers (R31); `ANN_CQ` is the three fields `cqClass`, `cqAccuracy`, `cqVariance`. -/
structure Announce where
  utc        : BitVec 16
  prio1      : BitVec 8
  cqClass    : BitVec 8
  cqAccuracy : BitVec 8
  cqVariance : BitVec 16
  prio2      : BitVec 8
  gmId       : Reg
  steps      : BitVec 16
  timeSrc    : BitVec 8
  deriving DecidableEq, Repr

/-- `LOCAL_CID`, `CFG_UTC` and `CFG_LEAP` (R32). -/
structure LeapConfig where
  localCid : Reg
  utc      : BitVec 16
  leapDate : BitVec 32
  leapType : BitVec 2
  deriving DecidableEq, Repr

/-- `TP`, the live time properties (R32). -/
structure TimeProps where
  utcOffset : BitVec 16
  leap59    : Bool
  leap61    : Bool
  deriving DecidableEq, Repr

/-- `TLV_TYPE`, `TLV_LEN`, `TLV_VPTR` (R33). -/
structure Tlv where
  type : BitVec 16
  len  : BitVec 16
  vptr : BitVec 16
  deriving DecidableEq, Repr

/-- The buffer window registers (R34): `BUF_BASE`, `BUF_LIMIT`, `BUF_PTR`, `BUF_STAT.HDR_PACKED`, `BUF_ADDR`.
`BUF_DATA` is no storage of its own: an access to it is an access to `BUF`. -/
structure Window where
  base      : BitVec 16
  limit     : BitVec 16
  ptr       : BitVec 16
  hdrPacked : Bool
  addr      : BitVec 16
  deriving DecidableEq, Repr

/-- The buffer memory `BUF` (R41): the bytes that something has written, as (offset, byte) pairs with rising offsets, and the number
of the power-on they were written after. A byte that nothing has written since has no entry; what it reads as is
`Config.powerOnByte` (assumption log 3). -/
structure Memory where
  cells   : List Host.Cell
  powerOn : Nat
  deriving DecidableEq, Repr

/-- The registers of one filter (R38). -/
structure Filter where
  windowed : Bool
  period   : BitVec 16
  dist     : BitVec 16
  y        : TimeInterval
  k        : BitVec 16
  min      : TimeInterval
  max      : TimeInterval
  sum      : TimeInterval
  deriving DecidableEq, Repr

/-- The servo configuration registers of one context (R36), `k = 0x00 .. 0x13`. -/
structure ServoConfig where
  pEn        : Bool
  iEn        : Bool
  dEn        : Bool
  oscFree    : Bool
  gain       : BitVec 16
  ap         : BitVec 16
  ai         : BitVec 16
  ad         : BitVec 16
  maxAdj     : TimeInterval
  synceThr   : TimeInterval
  stableBand : TimeInterval
  stableN    : BitVec 16
  unstableM  : BitVec 16
  okThr      : TimeInterval
  failThr    : TimeInterval
  hoBand     : TimeInterval
  hoCount    : BitVec 16
  hoW        : BitVec 16
  settleTicks : BitVec 32
  thrInit    : TimeInterval
  thrDelay   : TimeInterval
  domain     : Domain
  validLft   : BitVec 32
  prefLft    : BitVec 32
  deriving DecidableEq, Repr

/-- The servo state registers of one context (R37), `k = 0x18 .. 0x2D`; the first eight fields are `SV_STATE`.
`clockState` is the 4-bit number of R37, because the host may write the reserved numbers 9 to 15. -/
structure ServoState where
  clockState   : BitVec 4
  stableOffset : Bool
  offsetOk     : Bool
  holdoverOk   : Bool
  forceStep    : Bool
  havePrev     : Bool
  haveDelay    : Bool
  haveSample   : Bool
  prop         : TimeInterval
  integral     : TimeInterval
  diff         : TimeInterval
  prevOffset   : TimeInterval
  deltaT       : TimeInterval
  adjAvg       : TimeInterval
  hoCnt        : BitVec 16
  stableCnt    : BitVec 16
  unstableCnt  : BitVec 16
  m2s          : TimeInterval
  s2m          : TimeInterval
  mpd          : TimeInterval
  offset       : TimeInterval
  prevT2       : Timestamp
  adj          : TimeInterval
  ratio        : Reg
  prevT1       : Timestamp
  pidT         : Timestamp
  deriving DecidableEq, Repr

/-- One servo context `SV[c]` (R35 to R38): configuration, state, and its two filters (0 delay, 1 offset). -/
structure Context where
  cfg : ServoConfig
  st  : ServoState
  flt : Vector Filter 2
  deriving DecidableEq, Repr

/-- One timer record `T[i]` (R39); the first five fields are `TM_CTRL`. -/
structure Timer where
  init        : Bool
  armed       : Bool
  periodic    : Bool
  stopPending : Bool
  inst        : BitVec 8
  periodTicks : BitVec 32
  periodUs    : Reg
  deadlineUs  : Reg
  fireCnt     : BitVec 32
  lossCnt     : BitVec 32
  deriving DecidableEq, Repr

/-- The record of the last clock-control call (R40): `CC_COUNT`, `CC_LAST` (three fields), `CC_ARG0`, `CC_ARG1`, `CC_TICKCNT`. -/
structure CallRecord where
  count    : Reg
  op       : BitVec 3
  negative : Bool
  domain   : Domain
  arg0     : Reg
  arg1     : Reg
  tickCnt  : Reg
  deriving DecidableEq, Repr

/-- One call on the clock-control port (R320, R321). -/
inductive Call where
  /-- `set_frequency_ratio(ratio, dom)`: signed parts per trillion, positive = faster. -/
  | setFrequencyRatio (ratio : Reg) (dom : Domain)
  /-- `set_time(t, dom)`. -/
  | setTime (t : Timestamp) (dom : Domain)
  /-- `set_time_delta(delta, dom, negative)`: unsigned magnitude, 0 to 2^63. -/
  | setTimeDelta (delta : Reg) (dom : Domain) (negative : Bool)
  /-- `adjust_phase(offset_ns, dom)`: signed whole nanoseconds. -/
  | adjustPhase (offsetNs : Reg) (dom : Domain)
  /-- `get_time(dom)`. -/
  | getTime (dom : Domain)
  deriving DecidableEq, Repr

/-- The inputs of a step, which R20 lists as "not state": `TICK_US` (as `TICK_US - 1`, so that `TICK_US ≥ 1`), the host's next
transactions, and the answers of the clock-control port to `get_time`. They stand in `State` because `step` has no other argument.
`answers` are answers scheduled in advance (R329 "the next element of an input list"); when there is none, answer number `draws` is
drawn from `Config.portAnswer` (R329 "a free draw"). Assumption log 1, 2, 4. -/
structure Inputs where
  tickUsPred : Nat
  pending    : List Txn
  answers    : List PortAnswer
  draws      : Nat
  deriving DecidableEq, Repr

/-- The machine. All fields but the last three are the CSRs of R44 and `BUF`; `trace` is the clock-control trace (R320), `result` the
answer of the last transaction to the host (R342: the value of a `rd`, none for `wr` and `reset`), `inputs` the inputs to come. -/
structure State where
  cmd      : CommandWord
  status   : Status
  evt      : BitVec 12
  evtMask  : BitVec 12
  cmdCnt   : Reg
  dout0    : Reg
  dout1    : Reg
  ti       : Vector TimeInterval 8
  ts       : Vector Timestamp 4
  pid      : Vector PortId 2
  hdr      : Header
  ann      : Announce
  leap     : LeapConfig
  tp       : TimeProps
  tlv      : Tlv
  win      : Window
  buf      : Memory
  cc       : CallRecord
  svActive : CtxId
  sv       : Vector Context 2
  nowUs    : Reg
  tmNext   : Reg
  tm       : Vector Timer 8
  trace    : List Call
  result   : Option Reg
  inputs   : Inputs
  deriving DecidableEq, Repr

/-- Why a step could end in a fault: nothing does. R354: "Nothing in this core is escalated to process-level fatal failure"; after any
error "the engine accepts the next transaction exactly as before". The errors of R350 are codes in `STATUS.ERR` of a next state. -/
inductive Fault where
  deriving DecidableEq, Repr

/-- Why a step could be refused. -/
inductive Refusal where
  /-- Raised by an arm of `exec` for a command that has no meaning yet; safe (no behaviour is claimed). No arm raises it. -/
  | notModelled (mnemonic : String)
  deriving DecidableEq, Repr

/-- What one step answers. -/
abbrev StepOutcome := Host.Outcome State Fault Refusal

/-! Reset values (R43). -/

/-- All four fields zero. -/
def Timestamp.zero : Timestamp := ⟨0, 0, 0, 0⟩

/-- Lowpass, period 0, empty (R43). -/
def Filter.reset : Filter := ⟨false, 0, 0, 0, 0, 0, 0, 0⟩

/-- All zero but the two 400 ms thresholds and `SV_SMP_LFT.valid_lft = 2^31 - 1` (R43). -/
def ServoConfig.reset : ServoConfig where
  pEn := false
  iEn := false
  dEn := false
  oscFree := false
  gain := 0
  ap := 0
  ai := 0
  ad := 0
  maxAdj := 0
  synceThr := 0
  stableBand := 0
  stableN := 0
  unstableM := 0
  okThr := 0
  failThr := 0
  hoBand := 0
  hoCount := 0
  hoW := 0
  settleTicks := 0
  thrInit := 0x000017D784000000
  thrDelay := 0x000017D784000000
  domain := 0
  validLft := 0x7FFFFFFF
  prefLft := 0

/-- Every servo state register 0: `clock_state = FREERUN`, all flags 0 (R43). -/
def ServoState.zero : ServoState where
  clockState := 0
  stableOffset := false
  offsetOk := false
  holdoverOk := false
  forceStep := false
  havePrev := false
  haveDelay := false
  haveSample := false
  prop := 0
  integral := 0
  diff := 0
  prevOffset := 0
  deltaT := 0
  adjAvg := 0
  hoCnt := 0
  stableCnt := 0
  unstableCnt := 0
  m2s := 0
  s2m := 0
  mpd := 0
  offset := 0
  prevT2 := Timestamp.zero
  adj := 0
  ratio := 0
  prevT1 := Timestamp.zero
  pidT := Timestamp.zero

/-- A context after reset. -/
def Context.reset : Context where
  cfg := ServoConfig.reset
  st := ServoState.zero
  flt := #v[Filter.reset, Filter.reset]

/-- A timer after reset: everything 0 but `INIT`, which is 1 for the settle timers 0 and 1 (R43). -/
def Timer.reset (settle : Bool) : Timer := ⟨settle, false, false, false, 0, 0, 0, 0, 0, 0⟩

/-- The inputs of a machine that has just been powered on: `TICK_US` free, no transaction given yet, no answer scheduled. -/
def Inputs.initial : Inputs := ⟨Config.tickUsPred, [], [], 0⟩

/-- The machine right after reset (R43): every CSR at its reset value, the contents of `BUF` unspecified, no call made.
`inputs` and `result` are the model's own fields (assumption log 1, 2, 4, 5). -/
def State.reset : State where
  cmd := 0
  status := ⟨false, false, false, false, 0⟩
  evt := 0
  evtMask := 0
  cmdCnt := 0
  dout0 := 0
  dout1 := 0
  ti := #v[0, 0, 0, 0, 0, 0, 0, 0]
  ts := #v[Timestamp.zero, Timestamp.zero, Timestamp.zero, Timestamp.zero]
  pid := #v[⟨0, 0⟩, ⟨0, 0⟩]
  hdr := ⟨0, 0, 0, 0, 0, 0, 0, 0, 0, 0, 0, 0, 0⟩
  ann := ⟨0, 0, 0, 0, 0, 0, 0, 0, 0⟩
  leap := ⟨0, 0, 0, 0⟩
  tp := ⟨0, false, false⟩
  tlv := ⟨0, 0, 0⟩
  win := ⟨0, 0, 0, false, 0⟩
  buf := ⟨[], 0⟩
  cc := ⟨0, 0, false, 0, 0, 0, 0⟩
  svActive := 0
  sv := #v[Context.reset, Context.reset]
  nowUs := 0
  tmNext := 0xFFFFFFFFFFFFFFFF
  tm := #v[Timer.reset true, Timer.reset true, Timer.reset false, Timer.reset false,
           Timer.reset false, Timer.reset false, Timer.reset false, Timer.reset false]
  trace := []
  result := none
  inputs := Inputs.initial

end Sys2Proof.Machine
end

