-- ==== Sys2Proof/Machine/Flags.lean ====
section
/-! DEFINITION. Error codes, the `STATUS` register, the event bits and the `irq` line (spec/10_state.md R25, R28;
spec/60_exceptions.md R350, R360, R361). -/

namespace Sys2Proof.Machine

/-- The errors a command can end with (R350). -/
inductive Err where
  | illegal | ovf | div | operand | bounds | tlv | seq | discard | cfg | inactive
  deriving DecidableEq, Repr

/-- The code of an error in `STATUS.ERR` (R350). -/
def errCode : Err → BitVec 8
  | .illegal => 1
  | .ovf => 2
  | .div => 3
  | .operand => 4
  | .bounds => 5
  | .tlv => 6
  | .seq => 7
  | .discard => 8
  | .cfg => 9
  | .inactive => 10

/-- `STATUS` after a command that completed (R25, R130 step 5): `OK` 1, `ERR` 0, `VALID` as the command says; `LT`, `EQ` stay. -/
def statusOk (st : Status) (valid : Bool) : Status := { st with ok := true, valid := valid, err := 0 }

/-- `STATUS` after a command that raised `e` (R130 step 4, R352): `OK` 0, `VALID` 0, `ERR` the code; `LT`, `EQ` stay. -/
def statusErr (st : Status) (e : Err) : Status := { st with ok := false, valid := false, err := errCode e }

/-- The flags of a successful `TI.CMP` (R139). -/
def statusCmp (st : Status) (lt eq : Bool) : Status := { st with lt := lt, eq := eq }

/-! Clock-lock states by their numbers (R37). -/

/-- `FREERUN`. -/
def csFreeRun : BitVec 4 := 0
/-- `FREQ_LOCK_INIT`. -/
def csFreqLockInit : BitVec 4 := 1
/-- `F_SETTLING`. -/
def csFSettling : BitVec 4 := 2
/-- `FREQ_LOCKING`. -/
def csFreqLocking : BitVec 4 := 3
/-- `FREQ_LOCKED`. -/
def csFreqLocked : BitVec 4 := 4
/-- `PHASE_LOCKING`. -/
def csPhaseLocking : BitVec 4 := 5
/-- `P_SETTLING`. -/
def csPSettling : BitVec 4 := 6
/-- `PHASE_LOCKED`. -/
def csPhaseLocked : BitVec 4 := 7
/-- `RECOVERING`. -/
def csRecovering : BitVec 4 := 8

/-- "settling" (R17): clock state `F_SETTLING` or `P_SETTLING`. -/
def settling (cs : BitVec 4) : Bool := cs == csFSettling || cs == csPSettling

/-- One bit of a 64-bit register image: `b` at position `n`. -/
def bitAt (n : Nat) (b : Bool) : Reg := if b then 1#64 <<< n else 0

/-- A field of a 64-bit register image: `v` with its bit 0 at position `n`. -/
def fieldAt (n : Nat) {w : Nat} (v : BitVec w) : Reg := v.setWidth 64 <<< n

/-- The servo context that `SV_ACTIVE` names. -/
def activeContext (s : State) : Context := s.sv[s.svActive]

/-- What a read of `STATUS` returns (R25): the stored bits 15..0 and the live view of the active context in bits 24..16. -/
def statusImage (s : State) : Reg :=
  let st := (activeContext s).st
  bitAt 0 s.status.ok ||| bitAt 1 s.status.valid ||| bitAt 2 s.status.lt ||| bitAt 3 s.status.eq
    ||| fieldAt 8 s.status.err ||| fieldAt 16 st.clockState ||| bitAt 20 st.stableOffset ||| bitAt 21 st.offsetOk
    ||| bitAt 22 st.holdoverOk ||| bitAt 23 (s.svActive == 1) ||| bitAt 24 (settling st.clockState)

/-- `SV_STATE` (R37). -/
def servoStateImage (t : ServoState) : Reg :=
  fieldAt 0 t.clockState ||| bitAt 4 t.stableOffset ||| bitAt 5 t.offsetOk ||| bitAt 6 t.holdoverOk ||| bitAt 7 t.forceStep
    ||| bitAt 8 t.havePrev ||| bitAt 9 t.haveDelay ||| bitAt 10 t.haveSample

/-! Events (R28, R361). -/

/-- `EVT` bit of timer `i`: `SETTLE_DONE[i]` for 0 and 1, `TMR[i]` for 2 to 7. -/
def evTimer (i : TmrId) : BitVec 12 := 1#12 <<< i.val
/-- `STATE_CHG`, bit 8. -/
def evStateChg : BitVec 12 := 0x100
/-- `STEPPED`, bit 9. -/
def evStepped : BitVec 12 := 0x200
/-- `HOLDOVER_RDY`, bit 10. -/
def evHoldoverRdy : BitVec 12 := 0x400
/-- `HOLDOVER_USED`, bit 11. -/
def evHoldoverUsed : BitVec 12 := 0x800

/-- `event(b)` (R12): sets bits of `EVT`, which are sticky (R28, R362). -/
def event (b : BitVec 12) (s : State) : State := { s with evt := s.evt ||| b }

/-- `event(b)` if a condition holds. -/
def eventIf (c : Bool) (b : BitVec 12) (s : State) : State := if c then event b s else s

/-- The host's write-1-to-clear of `EVT` (R28). -/
def clearEvents (b : BitVec 12) (s : State) : State := { s with evt := s.evt &&& ~~~b }

/-- The `irq` output (R360): the level `(EVT & EVT_MASK) ≠ 0`. -/
def irq (s : State) : Bool := s.evt &&& s.evtMask != 0

end Sys2Proof.Machine
end

