-- ==== Sys2Proof/Machine/Operands.lean ====
section
/-! DEFINITION. The primitives of the spec's pseudocode over integers (spec/00_scope.md R11, R13; spec/40_timevalue.md R150) and the
operand registers: how a command reads and writes `ti`, `ts`, `pid`, a servo context, a filter and a timer (R12). -/

namespace Sys2Proof.Machine

/-! Arithmetic over unbounded integers (R11). -/

/-- What a command's pseudocode answers: an error (`raise`), or a value. -/
abbrev Result := Except Err

/-- `raise e` unless `c` holds. -/
def ensure (c : Bool) (e : Err) : Result Unit := if c then .ok () else .error e

/-- `fits64(v)`: `INT64_MIN ≤ v ≤ INT64_MAX`. -/
def fits64 (v : Int) : Bool := decide (-9223372036854775808 ≤ v ∧ v ≤ 9223372036854775807)

/-- The 64-bit two's-complement register value of an integer that fits. -/
def raw64 (v : Int) : TimeInterval := BitVec.ofInt 64 v

/-- `chk(v)`: `v` if it fits 64 bits, otherwise `raise E_OVF`. -/
def chk (v : Int) : Result TimeInterval := if fits64 v then .ok (raw64 v) else .error .ovf

/-- `div_t(a, b)`: the quotient rounded toward zero. -/
def divT (a b : Int) : Int := a.tdiv b

/-- `sra(v, n) = floor(v / 2^n)`. -/
def sra (v : Int) (n : Nat) : Int := v / 2 ^ n

/-- `abs(v)`, unbounded. -/
def absI (v : Int) : Int := (v.natAbs : Int)

/-- `ONE_SEC`: one second as a raw TimeInterval (R10). -/
def oneSec : Int := 65536000000000

/-! Timestamps (R13). -/

/-- `ts_wf(t)`: `t.ns < 10^9`. -/
def tsWf (t : Timestamp) : Bool := decide (t.ns.toNat < 1000000000)

/-- `ts_sec(t)`: the 48-bit whole-second count. -/
def tsSec (t : Timestamp) : Nat := t.secMsb.toNat * 2 ^ 32 + t.sec.toNat

/-- `ts_units(t)`: the position on the time axis in units of 2^-16 ns. -/
def tsUnits (t : Timestamp) : Int := ((tsSec t * 1000000000 + t.ns.toNat) * 65536 + t.frac.toNat : Nat)

/-- `ts_diff(a, b)`, unbounded. -/
def tsDiff (a b : Timestamp) : Int := tsUnits a - tsUnits b

/-- The first position that is no Timestamp: `2^48 · 10^9 · 2^16`. -/
def tsLimit : Int := 2 ^ 48 * 1000000000 * 65536

/-- `ts_from_units(u)`, for `0 ≤ u < tsLimit`. -/
def tsFromUnits (u : Int) : Timestamp :=
  let v := u.toNat
  let n := v / 65536
  let s := n / 1000000000
  { secMsb := BitVec.ofNat 16 (s / 2 ^ 32)
    sec := BitVec.ofNat 32 (s % 2 ^ 32)
    ns := BitVec.ofNat 32 (n % 1000000000)
    frac := BitVec.ofNat 16 (v % 65536) }

/-- A point on the time axis as a Timestamp, or `raise E_OVF` when it is before the epoch or beyond 48 bits of seconds
(R147, R277). -/
def tsChk (u : Int) : Result Timestamp :=
  if 0 ≤ u ∧ u < tsLimit then .ok (tsFromUnits u) else .error .ovf

/-- `if not ts_wf(t) then raise E_OPERAND`. -/
def needWf (t : Timestamp) : Result Unit := ensure (tsWf t) .operand

/-! Operand registers (R12, R21, R22, R23). -/

/-- `ti[i] <- v`. -/
def setTi (i : TiReg) (v : TimeInterval) (s : State) : State := { s with ti := s.ti.set i.val v }

/-- `ts[i] <- t`. -/
def setTs (i : TsReg) (t : Timestamp) (s : State) : State := { s with ts := s.ts.set i.val t }

/-- `pid[i] <- p`. -/
def setPid (i : PidReg) (p : PortId) (s : State) : State := { s with pid := s.pid.set i.val p }

/-- `ti[i]` as the signed integer it holds (R10). -/
def tiInt (s : State) (i : TiReg) : Int := s.ti[i].toInt

/-- `zext_64(ti[i])`: the register read as an unsigned integer (R174, R178). -/
def tiNat (s : State) (i : TiReg) : Nat := s.ti[i].toNat

/-! Servo contexts, filters and timers. -/

/-- The other context of the pair. -/
def otherCtx (c : CtxId) : CtxId := 1 - c

/-- Replaces the state registers of context `c`. -/
def setSt (c : CtxId) (st : ServoState) (s : State) : State :=
  { s with sv := s.sv.set c.val { s.sv[c] with st := st } }

/-- Replaces filter `f` of context `c`. -/
def setFlt (c : CtxId) (f : FltId) (x : Filter) (s : State) : State :=
  { s with sv := s.sv.set c.val { s.sv[c] with flt := s.sv[c].flt.set f.val x } }

/-- Replaces timer record `i`. -/
def setTimer (i : TmrId) (t : Timer) (s : State) : State := { s with tm := s.tm.set i.val t }

/-- The settle timer of context `c` is timer `c` (R170). -/
def settleTimer (c : CtxId) : TmrId := c.castLE (by decide)

/-- `TICK_US` (R7): at least 1 by its form. -/
def tickUs (s : State) : Nat := s.inputs.tickUsPred + 1

end Sys2Proof.Machine
end

