-- ==== Sys2Proof/Machine/Ops.lean ====
section
/-! DEFINITION. The shared operations: the frame every command runs in and the one way an error is taken (spec/40_timevalue.md R130,
spec/60_exceptions.md R352), the buffer memory (spec/20_memory.md R72 to R77), the clock-control port (spec/45_clock_control.md R320,
R321) and arming a timer (spec/41_timer.md R171). The engine has no trap entry and no return from one (R363). -/

namespace Sys2Proof.Machine

/-! The execution frame (R130). -/

/-- Taking an error (R130 step 4, R352): `CMDCNT` and `STATUS` change and nothing else does. (`CMD`, which R352 also names, is
written by the transaction: Machine/Transact.lean.) -/
def takeError (e : Err) (s : State) : State :=
  { s with cmdCnt := s.cmdCnt + 1, status := statusErr s.status e }

/-- A command that did not raise (R130 step 5): its copy of the state becomes the state. -/
def complete (t : State) (valid : Bool) : State :=
  { t with cmdCnt := t.cmdCnt + 1, status := statusOk t.status valid }

/-- What a command's pseudocode computes on a copy of the state: the copy and its `VALID` (R14, R130 step 3). -/
abbrev Body := State → Result (State × Bool)

/-- The frame of R130 around a command's pseudocode: evaluated on a copy, committed only if nothing raised. `CMDCNT <- CMDCNT + 1`
of step 1 is written at the end, which no command can tell: none reads `CMDCNT`, and R341 gives `SYS.RESET` the value `0 + 1`. -/
def command (body : Body) (s : State) : StepOutcome :=
  match body s with
  | .ok (t, valid) => .next (complete t valid)
  | .error e => .next (takeError e s)

/-- A pseudocode that cannot raise and leaves `VALID` 0. -/
def plain (f : State → State) : Body := fun s => .ok (f s, false)

/-! The buffer memory (R41, R72 to R77). -/

/-- `BUF_BYTES` (R7). -/
def bufBytes : Nat := 2048

/-- The byte stored at an offset, if something has written it. -/
def lookup : List Host.Cell → Nat → Option Byte
  | [], _ => none
  | (b, v) :: rest, a => if a = b then some v else lookup rest a

/-- Writes one byte into a list with rising offsets and keeps them rising. -/
def insertCell (a : Nat) (v : Byte) : List Host.Cell → List Host.Cell
  | [] => [(a, v)]
  | (b, w) :: rest =>
    if a < b then (a, v) :: (b, w) :: rest
    else if a = b then (a, v) :: rest
    else (b, w) :: insertCell a v rest

/-- What a byte of `BUF` reads as: what was last written, or what it holds since power-on (assumption log 3). -/
def readByte (m : Memory) (a : Nat) : Byte := (lookup m.cells a).getD (Config.powerOnByte m.powerOn a)

/-- Stores one byte. Every offset a command stores to is below `BUF_BYTES`, because the window is inside `BUF` (R74). -/
def writeByte (m : Memory) (a : Nat) (v : Byte) : Memory :=
  if a < bufBytes then { m with cells := insertCell a v m.cells } else m

/-- The `n` bytes at offsets `a .. a+n-1`, in that order. -/
def readBytes (m : Memory) (a : Nat) : Nat → List Byte
  | 0 => []
  | n + 1 => readByte m a :: readBytes m (a + 1) n

/-- Stores a list of bytes at `a` and on. -/
def writeBytes (m : Memory) (a : Nat) : List Byte → Memory
  | [] => m
  | v :: vs => writeBytes (writeByte m a v) (a + 1) vs

/-- The big-endian value of a byte string: the first byte most significant (R72). -/
def bigEndian (bs : List Byte) : Nat := bs.foldl (fun n b => n * 256 + b.toNat) 0

/-- The `n` bytes of a value, most significant first. -/
def bytesOf (v : Nat) : Nat → List Byte
  | 0 => []
  | n + 1 => BitVec.ofNat 8 (v / 256 ^ n) :: bytesOf v n

/-- `MemRead(off, n)` (R12). -/
def memRead (m : Memory) (off n : Nat) : Nat := bigEndian (readBytes m off n)

/-- `MemWrite(off, n, v)` (R12): the low `8n` bits of `v`. -/
def memWrite (off n v : Nat) (m : Memory) : Memory := writeBytes m off (bytesOf v n)

/-- The canonical form of the buffer: rising offsets, all of them inside `BUF`. -/
def Memory.wf (m : Memory) : Bool :=
  decide (m.cells.Pairwise fun x y => x.1 < y.1) && m.cells.all fun c => decide (c.1 < bufBytes)

/-- `win(off, n)` (R74): the window is valid and holds the range. -/
def inWindow (w : Window) (off n : Nat) : Bool :=
  decide (w.base.toNat ≤ w.limit.toNat ∧ w.limit.toNat ≤ bufBytes ∧ w.base.toNat ≤ off ∧ off + n ≤ w.limit.toNat)

/-- `if not win(off, n) then raise E_BOUNDS`. -/
def needWindow (s : State) (off n : Nat) : Result Unit := ensure (inWindow s.win off n) .bounds

/-- Applies an update of the buffer. -/
def setBuf (f : Memory → Memory) (s : State) : State := { s with buf := f s.buf }

/-! The clock-control port (R320, R321). -/

/-- `TSk_HI` layout (R22): `sec_msb` in bits 47..32, `sec` in bits 31..0. -/
def tsHi (t : Timestamp) : Reg := fieldAt 32 t.secMsb ||| fieldAt 0 t.sec

/-- `TSk_LO` layout (R22): `ns` in bits 63..32, `frac` in bits 15..0. -/
def tsLo (t : Timestamp) : Reg := fieldAt 32 t.ns ||| fieldAt 0 t.frac

/-- How a call is recorded (R321): `op`, `negative`, `domain`, `CC_ARG0`, `CC_ARG1`. -/
def recordCall (r : CallRecord) : Call → CallRecord
  | .setFrequencyRatio ratio d => { r with count := r.count + 1, op := 1, negative := false, domain := d, arg0 := ratio, arg1 := 0 }
  | .setTime t d => { r with count := r.count + 1, op := 2, negative := false, domain := d, arg0 := tsHi t, arg1 := tsLo t }
  | .setTimeDelta v d n => { r with count := r.count + 1, op := 3, negative := n, domain := d, arg0 := v, arg1 := 0 }
  | .adjustPhase ns d => { r with count := r.count + 1, op := 4, negative := false, domain := d, arg0 := ns, arg1 := 0 }
  | .getTime d => { r with count := r.count + 1, op := 5, negative := false, domain := d, arg0 := 0, arg1 := 0 }

/-- `emit cc.<call>(args)` (R320, R321): appended to the trace and recorded. It never raises. -/
def emit (c : Call) (s : State) : State :=
  { s with trace := s.trace ++ [c], cc := recordCall s.cc c }

/-- The next answer of the port to `get_time` (R329): the next one scheduled, or a free draw. -/
def nextAnswer (i : Inputs) : PortAnswer :=
  match i.answers with
  | a :: _ => a
  | [] => Config.portAnswer i.draws

/-- The inputs after an answer has been taken. -/
def afterAnswer (i : Inputs) : Inputs :=
  match i.answers with
  | _ :: rest => { i with answers := rest }
  | [] => { i with draws := i.draws + 1 }

/-- The Timestamp of an answer; well formed by the type of `ns` (R329). -/
def answerTime (a : PortAnswer) : Timestamp := ⟨a.secMsb, a.sec, BitVec.ofNat 32 a.ns.val, a.frac⟩

/-! Arming a timer (R171). -/

/-- `roundup_tick(v)`: the smallest multiple of `TICK_US` that is at least `v`. -/
def roundupTick (tick v : Nat) : Nat := (v + (tick - 1)) / tick * tick

/-- The deadline `arm` computes. -/
def armDeadline (s : State) (ticks : Nat) : Nat := roundupTick (tickUs s) (s.nowUs.toNat + ticks * tickUs s)

/-- The timer record `arm` writes. `INIT`, `INSTANCE` and the counters stay. -/
def armedTimer (t : Timer) (ticks periodUs deadline : Nat) (rep : Bool) : Timer :=
  { t with periodTicks := BitVec.ofNat 32 ticks, periodUs := BitVec.ofNat 64 periodUs, deadlineUs := BitVec.ofNat 64 deadline,
           periodic := rep, stopPending := false, armed := true }

/-- `arm(i, ticks, rep)`, for `ticks < 2^32`; `E_OVF` when the deadline would reach 2^64. -/
def arm (i : TmrId) (ticks : Nat) (rep : Bool) (s : State) : Result State :=
  if armDeadline s ticks < 2 ^ 64 then
    .ok (setTimer i (armedTimer s.tm[i] ticks (ticks * tickUs s) (armDeadline s ticks) rep) s)
  else .error .ovf

/-- `T[i].ARMED <- 0 ; T[i].STOP_PENDING <- 0`. -/
def disarm (i : TmrId) (s : State) : State :=
  setTimer i { s.tm[i] with armed := false, stopPending := false } s

end Sys2Proof.Machine
end

