-- ==== Sys2Proof/Machine/Csr.lean ====
section
/-! DEFINITION. The CSR map (spec/10_state.md R44) and what a host read or write of a CSR does (R22 to R40), under the access
conventions of R29: only defined bits are stored, undefined bits read zero, a write to a read-only CSR is ignored, a number that is not
in the map reads zero and ignores writes. `CMD` is written in Machine/Transact.lean, because that runs a command. -/

namespace Sys2Proof.Machine

/-- Bits `lo + len - 1 .. lo` of a written value. -/
def slice (v : Reg) (lo len : Nat) : BitVec len := v.extractLsb' lo len

/-- One bit of a written value. -/
def flagBit (v : Reg) (n : Nat) : Bool := v.getLsbD n

/-- A value in the low bits of a CSR, zero above. -/
def low {w : Nat} (v : BitVec w) : Reg := v.setWidth 64

/-! Timestamps as a pair of CSRs (R22). -/

/-- A write of `TSk_LO`. -/
def writeTsLo (t : Timestamp) (v : Reg) : Timestamp := { t with ns := slice v 32 32, frac := slice v 0 16 }

/-- A write of `TSk_HI`. -/
def writeTsHi (t : Timestamp) (v : Reg) : Timestamp := { t with secMsb := slice v 32 16, sec := slice v 0 32 }

/-! `0x000 .. 0x009`: command, status, events (R24 to R28). -/

/-- The value of `ID` (R27): "PSE" and the revision 7. -/
def idValue : Reg := 0x0000000050534507

/-- Reads of `0x000 .. 0x009`. -/
def readSystem (s : State) : Nat → Reg
  | 0x000 => low s.cmd
  | 0x001 => statusImage s
  | 0x002 => low s.evt
  | 0x003 => low s.evtMask
  | 0x004 => idValue
  | 0x005 => s.cmdCnt
  | 0x008 => s.dout0
  | 0x009 => s.dout1
  | _ => 0

/-- Writes of `0x001 .. 0x009`: `EVT` is write-1-to-clear, `EVT_MASK` read-write, the others read-only. -/
def writeSystem (v : Reg) (s : State) : Nat → State
  | 0x002 => clearEvents (slice v 0 12) s
  | 0x003 => { s with evtMask := slice v 0 12 }
  | _ => s

/-! `0x010 .. 0x033`: the operand register files (R21, R22, R23). -/

/-- Reads of `0x010 .. 0x033`. -/
def readOperand (s : State) (a : Nat) : Reg :=
  if a < 0x018 then s.ti[Fin.ofNat 8 (a - 0x010)]
  else if a < 0x020 then 0
  else if a < 0x028 then
    let t := s.ts[Fin.ofNat 4 ((a - 0x020) / 2)]
    if a % 2 = 0 then tsLo t else tsHi t
  else if a < 0x030 then 0
  else
    let p := s.pid[Fin.ofNat 2 ((a - 0x030) / 2)]
    if a % 2 = 0 then p.cid else low p.port

/-- Writes of `0x010 .. 0x033`. -/
def writeOperand (v : Reg) (s : State) (a : Nat) : State :=
  if a < 0x018 then setTi (Fin.ofNat 8 (a - 0x010)) v s
  else if a < 0x020 then s
  else if a < 0x028 then
    let k : TsReg := Fin.ofNat 4 ((a - 0x020) / 2)
    setTs k (if a % 2 = 0 then writeTsLo s.ts[k] v else writeTsHi s.ts[k] v) s
  else if a < 0x030 then s
  else
    let k : PidReg := Fin.ofNat 2 ((a - 0x030) / 2)
    setPid k (if a % 2 = 0 then { s.pid[k] with cid := v } else { s.pid[k] with port := slice v 0 16 }) s

/-! `0x040 .. 0x06D`: the message registers (R30 to R34). -/

/-- Reads of the header registers `0x040 .. 0x049` (R30). -/
def readHeader (h : Header) : Nat → Reg
  | 0x040 => fieldAt 0 h.msgType ||| fieldAt 4 h.transport ||| fieldAt 8 h.version ||| fieldAt 12 h.minor
  | 0x041 => low h.length
  | 0x042 => low h.domain
  | 0x043 => low h.flags
  | 0x044 => h.corr
  | 0x045 => h.srcCid
  | 0x046 => low h.srcPort
  | 0x047 => low h.seq
  | 0x048 => low h.ctrl
  | 0x049 => low h.logInt
  | _ => 0

/-- Writes of the header registers. -/
def writeHeader (v : Reg) (h : Header) : Nat → Header
  | 0x040 => { h with msgType := slice v 0 4, transport := slice v 4 4, version := slice v 8 4, minor := slice v 12 4 }
  | 0x041 => { h with length := slice v 0 16 }
  | 0x042 => { h with domain := slice v 0 8 }
  | 0x043 => { h with flags := slice v 0 16 }
  | 0x044 => { h with corr := v }
  | 0x045 => { h with srcCid := v }
  | 0x046 => { h with srcPort := slice v 0 16 }
  | 0x047 => { h with seq := slice v 0 16 }
  | 0x048 => { h with ctrl := slice v 0 8 }
  | 0x049 => { h with logInt := slice v 0 8 }
  | _ => h

/-- Reads of the Announce registers `0x050 .. 0x056` (R31). -/
def readAnnounce (x : Announce) : Nat → Reg
  | 0x050 => low x.utc
  | 0x051 => low x.prio1
  | 0x052 => fieldAt 0 x.cqClass ||| fieldAt 8 x.cqAccuracy ||| fieldAt 16 x.cqVariance
  | 0x053 => low x.prio2
  | 0x054 => x.gmId
  | 0x055 => low x.steps
  | 0x056 => low x.timeSrc
  | _ => 0

/-- Writes of the Announce registers. -/
def writeAnnounce (v : Reg) (x : Announce) : Nat → Announce
  | 0x050 => { x with utc := slice v 0 16 }
  | 0x051 => { x with prio1 := slice v 0 8 }
  | 0x052 => { x with cqClass := slice v 0 8, cqAccuracy := slice v 8 8, cqVariance := slice v 16 16 }
  | 0x053 => { x with prio2 := slice v 0 8 }
  | 0x054 => { x with gmId := v }
  | 0x055 => { x with steps := slice v 0 16 }
  | 0x056 => { x with timeSrc := slice v 0 8 }
  | _ => x

/-- Reads of `0x058 .. 0x05B` (R32) and the TLV registers `0x060 .. 0x062` (R33). -/
def readLeapTlv (s : State) : Nat → Reg
  | 0x058 => s.leap.localCid
  | 0x059 => low s.leap.utc
  | 0x05A => fieldAt 0 s.leap.leapDate ||| fieldAt 32 s.leap.leapType
  | 0x05B => fieldAt 0 s.tp.utcOffset ||| bitAt 16 s.tp.leap59 ||| bitAt 17 s.tp.leap61
  | 0x060 => low s.tlv.type
  | 0x061 => low s.tlv.len
  | 0x062 => low s.tlv.vptr
  | _ => 0

/-- Writes of `0x058 .. 0x05B` and `0x060 .. 0x062`. -/
def writeLeapTlv (v : Reg) (s : State) : Nat → State
  | 0x058 => { s with leap := { s.leap with localCid := v } }
  | 0x059 => { s with leap := { s.leap with utc := slice v 0 16 } }
  | 0x05A => { s with leap := { s.leap with leapDate := slice v 0 32, leapType := slice v 32 2 } }
  | 0x05B => { s with tp := ⟨slice v 0 16, flagBit v 16, flagBit v 17⟩ }
  | 0x060 => { s with tlv := { s.tlv with type := slice v 0 16 } }
  | 0x061 => { s with tlv := { s.tlv with len := slice v 0 16 } }
  | 0x062 => { s with tlv := { s.tlv with vptr := slice v 0 16 } }
  | _ => s

/-- What `BUF_DATA` reads (R34): `BUF[BUF_ADDR]`, zero when `BUF_ADDR ≥ BUF_BYTES`. -/
def bufDataValue (s : State) : Reg :=
  if s.win.addr.toNat < bufBytes then low (readByte s.buf s.win.addr.toNat) else 0

/-- `BUF_ADDR <- BUF_ADDR + 1` modulo 2^16, the side effect of every `BUF_DATA` access (R34). -/
def bumpAddr (s : State) : State := { s with win := { s.win with addr := s.win.addr + 1 } }

/-- A write of `BUF_DATA` (R34): ignored above the end of `BUF`; the address advances either way. -/
def writeBufData (v : Reg) (s : State) : State :=
  bumpAddr (setBuf (fun m => writeByte m s.win.addr.toNat (slice v 0 8)) s)

/-- Reads of the window registers `0x068 .. 0x06D` (R34), the value only. -/
def readWindow (s : State) : Nat → Reg
  | 0x068 => low s.win.base
  | 0x069 => low s.win.limit
  | 0x06A => low s.win.ptr
  | 0x06B => bitAt 0 s.win.hdrPacked
  | 0x06C => low s.win.addr
  | 0x06D => bufDataValue s
  | _ => 0

/-- Writes of the window registers: a write of `BUF_BASE` also clears `BUF_STAT.HDR_PACKED`; `BUF_STAT` is read-only. -/
def writeWindow (v : Reg) (s : State) : Nat → State
  | 0x068 => { s with win := { s.win with base := slice v 0 16, hdrPacked := false } }
  | 0x069 => { s with win := { s.win with limit := slice v 0 16 } }
  | 0x06A => { s with win := { s.win with ptr := slice v 0 16 } }
  | 0x06C => { s with win := { s.win with addr := slice v 0 16 } }
  | 0x06D => writeBufData v s
  | _ => s

/-! `0x0E0 .. 0x0F0`: the clock-control record (R40, read-only) and `SV_ACTIVE` (R35). -/

/-- `CC_LAST` (R40). -/
def ccLastImage (r : CallRecord) : Reg := fieldAt 0 r.op ||| bitAt 3 r.negative ||| fieldAt 8 r.domain

/-- Reads of `0x0E0 .. 0x0F0`. -/
def readPort (s : State) : Nat → Reg
  | 0x0E0 => s.cc.count
  | 0x0E1 => ccLastImage s.cc
  | 0x0E2 => s.cc.arg0
  | 0x0E3 => s.cc.arg1
  | 0x0E4 => s.cc.tickCnt
  | 0x0F0 => bitAt 0 (s.svActive == 1)
  | _ => 0

/-- Writes of `0x0E0 .. 0x0F0`. -/
def writePort (v : Reg) (s : State) : Nat → State
  | 0x0F0 => { s with svActive := if flagBit v 0 then 1 else 0 }
  | _ => s

/-! `0x100 .. 0x17F`: the servo contexts (R35 to R38), by the offset `k` inside a context. -/

/-- Reads of the configuration registers, `k = 0x00 .. 0x13` (R36). -/
def readServoConfig (g : ServoConfig) : Nat → Reg
  | 0x00 => bitAt 0 g.pEn ||| bitAt 1 g.iEn ||| bitAt 2 g.dEn ||| bitAt 3 g.oscFree
  | 0x01 => low g.gain
  | 0x02 => low g.ap
  | 0x03 => low g.ai
  | 0x04 => low g.ad
  | 0x05 => g.maxAdj
  | 0x06 => g.synceThr
  | 0x07 => g.stableBand
  | 0x08 => low g.stableN
  | 0x09 => low g.unstableM
  | 0x0A => g.okThr
  | 0x0B => g.failThr
  | 0x0C => g.hoBand
  | 0x0D => low g.hoCount
  | 0x0E => low g.hoW
  | 0x0F => low g.settleTicks
  | 0x10 => g.thrInit
  | 0x11 => g.thrDelay
  | 0x12 => low g.domain
  | 0x13 => fieldAt 0 g.validLft ||| fieldAt 32 g.prefLft
  | _ => 0

/-- Writes of the configuration registers. -/
def writeServoConfig (v : Reg) (g : ServoConfig) : Nat → ServoConfig
  | 0x00 => { g with pEn := flagBit v 0, iEn := flagBit v 1, dEn := flagBit v 2, oscFree := flagBit v 3 }
  | 0x01 => { g with gain := slice v 0 16 }
  | 0x02 => { g with ap := slice v 0 16 }
  | 0x03 => { g with ai := slice v 0 16 }
  | 0x04 => { g with ad := slice v 0 16 }
  | 0x05 => { g with maxAdj := v }
  | 0x06 => { g with synceThr := v }
  | 0x07 => { g with stableBand := v }
  | 0x08 => { g with stableN := slice v 0 16 }
  | 0x09 => { g with unstableM := slice v 0 16 }
  | 0x0A => { g with okThr := v }
  | 0x0B => { g with failThr := v }
  | 0x0C => { g with hoBand := v }
  | 0x0D => { g with hoCount := slice v 0 16 }
  | 0x0E => { g with hoW := slice v 0 16 }
  | 0x0F => { g with settleTicks := slice v 0 32 }
  | 0x10 => { g with thrInit := v }
  | 0x11 => { g with thrDelay := v }
  | 0x12 => { g with domain := slice v 0 8 }
  | 0x13 => { g with validLft := slice v 0 32, prefLft := slice v 32 32 }
  | _ => g

/-- Reads of the state registers, `k = 0x18 .. 0x2D` (R37). -/
def readServoState (t : ServoState) : Nat → Reg
  | 0x18 => servoStateImage t
  | 0x19 => t.prop
  | 0x1A => t.integral
  | 0x1B => t.diff
  | 0x1C => t.prevOffset
  | 0x1D => t.deltaT
  | 0x1E => t.adjAvg
  | 0x1F => low t.hoCnt
  | 0x20 => low t.stableCnt
  | 0x21 => low t.unstableCnt
  | 0x22 => t.m2s
  | 0x23 => t.s2m
  | 0x24 => t.mpd
  | 0x25 => t.offset
  | 0x26 => tsLo t.prevT2
  | 0x27 => tsHi t.prevT2
  | 0x28 => t.adj
  | 0x29 => t.ratio
  | 0x2A => tsLo t.prevT1
  | 0x2B => tsHi t.prevT1
  | 0x2C => tsLo t.pidT
  | 0x2D => tsHi t.pidT
  | _ => 0

/-- Writes of the state registers: taken as written (R29). -/
def writeServoState (v : Reg) (t : ServoState) : Nat → ServoState
  | 0x18 => { t with clockState := slice v 0 4, stableOffset := flagBit v 4, offsetOk := flagBit v 5, holdoverOk := flagBit v 6,
                     forceStep := flagBit v 7, havePrev := flagBit v 8, haveDelay := flagBit v 9, haveSample := flagBit v 10 }
  | 0x19 => { t with prop := v }
  | 0x1A => { t with integral := v }
  | 0x1B => { t with diff := v }
  | 0x1C => { t with prevOffset := v }
  | 0x1D => { t with deltaT := v }
  | 0x1E => { t with adjAvg := v }
  | 0x1F => { t with hoCnt := slice v 0 16 }
  | 0x20 => { t with stableCnt := slice v 0 16 }
  | 0x21 => { t with unstableCnt := slice v 0 16 }
  | 0x22 => { t with m2s := v }
  | 0x23 => { t with s2m := v }
  | 0x24 => { t with mpd := v }
  | 0x25 => { t with offset := v }
  | 0x26 => { t with prevT2 := writeTsLo t.prevT2 v }
  | 0x27 => { t with prevT2 := writeTsHi t.prevT2 v }
  | 0x28 => { t with adj := v }
  | 0x29 => { t with ratio := v }
  | 0x2A => { t with prevT1 := writeTsLo t.prevT1 v }
  | 0x2B => { t with prevT1 := writeTsHi t.prevT1 v }
  | 0x2C => { t with pidT := writeTsLo t.pidT v }
  | 0x2D => { t with pidT := writeTsHi t.pidT v }
  | _ => t

/-- Reads of a filter's registers, `j = 0 .. 7` (R38). -/
def readFilter (x : Filter) : Nat → Reg
  | 0 => bitAt 0 x.windowed
  | 1 => low x.period
  | 2 => low x.dist
  | 3 => x.y
  | 4 => low x.k
  | 5 => x.min
  | 6 => x.max
  | 7 => x.sum
  | _ => 0

/-- Writes of a filter's registers. -/
def writeFilter (v : Reg) (x : Filter) : Nat → Filter
  | 0 => { x with windowed := flagBit v 0 }
  | 1 => { x with period := slice v 0 16 }
  | 2 => { x with dist := slice v 0 16 }
  | 3 => { x with y := v }
  | 4 => { x with k := slice v 0 16 }
  | 5 => { x with min := v }
  | 6 => { x with max := v }
  | 7 => { x with sum := v }
  | _ => x

/-- Reads at offset `k` of a context, `k = 0x00 .. 0x3F`. -/
def readContext (x : Context) (k : Nat) : Reg :=
  if k < 0x18 then readServoConfig x.cfg k
  else if k < 0x30 then readServoState x.st k
  else readFilter x.flt[Fin.ofNat 2 ((k - 0x30) / 8)] (k % 8)

/-- Writes at offset `k` of a context. -/
def writeContext (v : Reg) (x : Context) (k : Nat) : Context :=
  if k < 0x18 then { x with cfg := writeServoConfig v x.cfg k }
  else if k < 0x30 then { x with st := writeServoState v x.st k }
  else
    let f : FltId := Fin.ofNat 2 ((k - 0x30) / 8)
    { x with flt := x.flt.set f.val (writeFilter v x.flt[f] (k % 8)) }

/-! `0x1F0 .. 0x23F`: the timers (R39). -/

/-- `TM_CTRL` (R39). -/
def timerCtrlImage (t : Timer) : Reg :=
  bitAt 0 t.init ||| bitAt 1 t.armed ||| bitAt 2 t.periodic ||| bitAt 3 t.stopPending ||| fieldAt 8 t.inst

/-- Reads of a timer's registers, `j = 0 .. 7`. -/
def readTimer (t : Timer) : Nat → Reg
  | 0 => timerCtrlImage t
  | 1 => low t.periodTicks
  | 2 => t.periodUs
  | 3 => t.deadlineUs
  | 4 => low t.fireCnt
  | 5 => low t.lossCnt
  | _ => 0

/-- Writes of a timer's registers. -/
def writeTimer (v : Reg) (t : Timer) : Nat → Timer
  | 0 => { t with init := flagBit v 0, armed := flagBit v 1, periodic := flagBit v 2, stopPending := flagBit v 3, inst := slice v 8 8 }
  | 1 => { t with periodTicks := slice v 0 32 }
  | 2 => { t with periodUs := v }
  | 3 => { t with deadlineUs := v }
  | 4 => { t with fireCnt := slice v 0 32 }
  | 5 => { t with lossCnt := slice v 0 32 }
  | _ => t

/-! The whole map (R44). -/

/-- The number of `CMD`. -/
def csrCmd : CsrNumber := 0x000

/-- The number of `BUF_DATA`. -/
def csrBufData : CsrNumber := 0x06D

/-- The value a read of CSR `n` returns (R44). -/
def csrValue (s : State) (n : CsrNumber) : Reg :=
  let a := n.toNat
  if a < 0x010 then readSystem s a
  else if a < 0x034 then readOperand s a
  else if a < 0x040 then 0
  else if a < 0x050 then readHeader s.hdr a
  else if a < 0x058 then readAnnounce s.ann a
  else if a < 0x068 then readLeapTlv s a
  else if a < 0x070 then readWindow s a
  else if a < 0x0E0 then 0
  else if a < 0x100 then readPort s a
  else if a < 0x180 then readContext s.sv[Fin.ofNat 2 ((a - 0x100) / 0x40)] (a % 0x40)
  else if a = 0x1F0 then s.nowUs
  else if a = 0x1F1 then s.tmNext
  else if a < 0x200 then 0
  else if a < 0x240 then readTimer s.tm[Fin.ofNat 8 ((a - 0x200) / 8)] (a % 8)
  else 0

/-- `rd n` (R342): the value, and the state after the one side effect a read can have, that of `BUF_DATA`. -/
def csrRead (n : CsrNumber) (s : State) : Reg × State :=
  (csrValue s n, if n = csrBufData then bumpAddr s else s)

/-- `wr n, v` for every CSR but `CMD` (R342): the state after it. -/
def csrWrite (n : CsrNumber) (v : Reg) (s : State) : State :=
  let a := n.toNat
  if a < 0x010 then writeSystem v s a
  else if a < 0x034 then writeOperand v s a
  else if a < 0x040 then s
  else if a < 0x050 then { s with hdr := writeHeader v s.hdr a }
  else if a < 0x058 then { s with ann := writeAnnounce v s.ann a }
  else if a < 0x068 then writeLeapTlv v s a
  else if a < 0x070 then writeWindow v s a
  else if a < 0x0E0 then s
  else if a < 0x100 then writePort v s a
  else if a < 0x180 then
    let c : CtxId := Fin.ofNat 2 ((a - 0x100) / 0x40)
    { s with sv := s.sv.set c.val (writeContext v s.sv[c] (a % 0x40)) }
  else if a = 0x1F0 then { s with nowUs := v }
  else if a < 0x200 then s
  else if a < 0x240 then
    let i : TmrId := Fin.ofNat 8 ((a - 0x200) / 8)
    setTimer i (writeTimer v s.tm[i] (a % 8)) s
  else s

end Sys2Proof.Machine
end

