-- ==== Sys2Proof/Machine/ClockControl.lean ====
section
/-! DEFINITION. The `CC.*` commands, by which the host uses the clock-control port itself (spec/45_clock_control.md R322 to R326). -/

namespace Sys2Proof.Machine

/-- The magnitude of a signed integer as an unsigned 64-bit value, up to 2^63 (R321, R324). -/
def magnitude (v : Int) : Reg := BitVec.ofNat 64 v.natAbs

/-- `CC.FREQ` (R322). -/
def execCcFreq (a : TiReg) (dom : Domain) (s : State) : StepOutcome :=
  command (plain fun s => emit (.setFrequencyRatio s.ti[a] dom) s) s

/-- `CC.SETTIME` (R323). -/
def execCcSetTime (a : TsReg) (dom : Domain) (s : State) : StepOutcome :=
  command (fun s => do
    needWf s.ts[a]
    return (emit (.setTime s.ts[a] dom) s, false)) s

/-- `CC.DELTA` (R324): the sign travels in `negative`. -/
def execCcDelta (a : TiReg) (dom : Domain) (s : State) : StepOutcome :=
  command (plain fun s => emit (.setTimeDelta (magnitude (tiInt s a)) dom (decide (tiInt s a < 0))) s) s

/-- `CC.PHASE` (R325). -/
def execCcPhase (a : TiReg) (dom : Domain) (s : State) : StepOutcome :=
  command (plain fun s => emit (.adjustPhase s.ti[a] dom) s) s

/-- The effect of the port's answer (R326): `ts[D] <- t ; CC_TICKCNT <- n ; DOUT0 <- n`, and the answer is used up. -/
def takeAnswer (d : TsReg) (s : State) : State :=
  let ans := nextAnswer s.inputs
  { setTs d (answerTime ans) s with
    cc := { s.cc with tickCnt := ans.tick }, dout0 := ans.tick, inputs := afterAnswer s.inputs }

/-- `CC.GETTIME` (R326). -/
def execCcGetTime (d : TsReg) (dom : Domain) (s : State) : StepOutcome :=
  command (plain fun s => takeAnswer d (emit (.getTime dom) s)) s

end Sys2Proof.Machine
end

