-- ==== Sys2Proof/Machine/Codec.lean ====
section
/-! DEFINITION. The Codec unit: the `PK.*` and `UP.*` commands (spec/43_codec.md R210 to R246), over the byte layouts of
spec/30_encoding.md R110 to R117. `B` of the rules is `base s`. -/

namespace Sys2Proof.Machine

/-- `BUF_BASE` as an offset. -/
def base (s : State) : Nat := s.win.base.toNat

/-! Helper functions over `BUF` (R212). -/

/-- `put_ts(off, t)`: `frac` is dropped. -/
def putTs (off : Nat) (t : Timestamp) (m : Memory) : Memory :=
  memWrite (off + 6) 4 t.ns.toNat (memWrite (off + 2) 4 t.sec.toNat (memWrite off 2 t.secMsb.toNat m))

/-- `get_ts(off)`: no range check, `frac` 0. -/
def getTs (m : Memory) (off : Nat) : Timestamp where
  secMsb := BitVec.ofNat 16 (memRead m off 2)
  sec := BitVec.ofNat 32 (memRead m (off + 2) 4)
  ns := BitVec.ofNat 32 (memRead m (off + 6) 4)
  frac := 0

/-- `put_pid(off, p)`. -/
def putPid (off : Nat) (p : PortId) (m : Memory) : Memory :=
  memWrite (off + 8) 2 p.port.toNat (memWrite off 8 p.cid.toNat m)

/-- `get_pid(off)`. -/
def getPid (m : Memory) (off : Nat) : PortId where
  cid := BitVec.ofNat 64 (memRead m off 8)
  port := BitVec.ofNat 16 (memRead m (off + 8) 2)

/-- `if BUF_STAT.HDR_PACKED = 0 then raise E_SEQ` (R214). -/
def needHeader (s : State) : Result Unit := ensure s.win.hdrPacked .seq

/-! Header (R215, R216). -/

/-- The 34 header bytes of R110. -/
def headerBytes (h : Header) : List Byte :=
  [h.transport ++ h.msgType, h.minor ++ h.version]
    ++ bytesOf h.length.toNat 2 ++ [h.domain, 0] ++ bytesOf h.flags.toNat 2 ++ bytesOf h.corr.toNat 8 ++ bytesOf 0 4
    ++ bytesOf h.srcCid.toNat 8 ++ bytesOf h.srcPort.toNat 2 ++ bytesOf h.seq.toNat 2 ++ [h.ctrl, h.logInt]

/-- `PK.HDR` (R215). -/
def execPkHdr (s : State) : StepOutcome :=
  command (fun s => do
    needWindow s (base s) 34
    return ({ setBuf (fun m => writeBytes m (base s) (headerBytes s.hdr)) s with win := { s.win with hdrPacked := true } }, false)) s

/-- The header registers from the bytes at `off` (R216); bytes 5 and 16 to 19 are not read. -/
def getHeader (m : Memory) (off : Nat) : Header :=
  let b0 := readByte m off
  let b1 := readByte m (off + 1)
  { msgType := b0.extractLsb' 0 4
    transport := b0.extractLsb' 4 4
    version := b1.extractLsb' 0 4
    minor := b1.extractLsb' 4 4
    length := BitVec.ofNat 16 (memRead m (off + 2) 2)
    domain := readByte m (off + 4)
    flags := BitVec.ofNat 16 (memRead m (off + 6) 2)
    corr := BitVec.ofNat 64 (memRead m (off + 8) 8)
    srcCid := BitVec.ofNat 64 (memRead m (off + 20) 8)
    srcPort := BitVec.ofNat 16 (memRead m (off + 28) 2)
    seq := BitVec.ofNat 16 (memRead m (off + 30) 2)
    ctrl := readByte m (off + 32)
    logInt := readByte m (off + 33) }

/-- `UP.HDR` (R216). -/
def execUpHdr (s : State) : StepOutcome :=
  command (fun s => do
    needWindow s (base s) 34
    return ({ s with hdr := getHeader s.buf (base s) }, false)) s

/-! Timestamp bodies (R220, R221) and Pdelay bodies (R224, R225). -/

/-- `PK.TS` (R220): `E_SEQ`, `E_BOUNDS`, `E_OPERAND` in that order. -/
def execPkTs (a : TsReg) (s : State) : StepOutcome :=
  command (fun s => do
    needHeader s
    needWindow s (base s + 34) 10
    needWf s.ts[a]
    return (setBuf (putTs (base s + 34) s.ts[a]) s, false)) s

/-- `UP.TS` (R221). -/
def execUpTs (d : TsReg) (s : State) : StepOutcome :=
  command (fun s => do
    needWindow s (base s + 34) 10
    return (setTs d (getTs s.buf (base s + 34)) s, false)) s

/-- `PK.PD` (R224). -/
def execPkPd (a : TsReg) (p : PidReg) (s : State) : StepOutcome :=
  command (fun s => do
    needHeader s
    needWindow s (base s + 34) 20
    needWf s.ts[a]
    return (setBuf (fun m => putPid (base s + 44) s.pid[p] (putTs (base s + 34) s.ts[a] m)) s, false)) s

/-- `UP.PD` (R225). -/
def execUpPd (d : TsReg) (p : PidReg) (s : State) : StepOutcome :=
  command (fun s => do
    needWindow s (base s + 34) 20
    return (setPid p (getPid s.buf (base s + 44)) (setTs d (getTs s.buf (base s + 34)) s), false)) s

/-! Announce (R230 to R234). -/

/-- What the leap computation answers: the UTC offset to transmit and the two flags (R231). -/
def leapCalc (g : LeapConfig) (t : Timestamp) : Result TimeProps :=
  let cfg := g.utc.toInt
  let utcSec : Int := tsSec t - cfg
  let instant : Int := g.leapDate.toNat * 86400
  if g.leapType = 1 ∨ g.leapType = 2 then
    if instant ≤ utcSec then
      let v := cfg + (if g.leapType = 1 then -1 else 1)
      if v < -32768 ∨ 32767 < v then .error .ovf
      else .ok ⟨BitVec.ofInt 16 v, false, false⟩
    else if instant - 86400 ≤ utcSec then .ok ⟨g.utc, g.leapType == 1, g.leapType == 2⟩
    else .ok ⟨g.utc, false, false⟩
  else .ok ⟨g.utc, false, false⟩

/-- A flag byte or word with its two leap bits replaced: bit 1 `leap59`, bit 0 `leap61` (R30, R232). -/
def withLeapBits {w : Nat} (f : BitVec w) (l59 l61 : Bool) : BitVec w :=
  (f &&& ~~~3#w) ||| (if l59 then 2#w else 0#w) ||| (if l61 then 1#w else 0#w)

/-- `persist(utc, l59, l61)` (R232): into `TP`, into `HDR_FLAGS` and into byte 7 of the buffer. -/
def persist (p : TimeProps) (s : State) : State :=
  { s with
    tp := p
    hdr := { s.hdr with flags := withLeapBits s.hdr.flags p.leap59 p.leap61 }
    buf := writeByte s.buf (base s + 7) (withLeapBits (readByte s.buf (base s + 7)) p.leap59 p.leap61) }

/-- The 20 bytes of the Announce body after the origin timestamp (R115). -/
def announceBytes (x : Announce) (utc : BitVec 16) : List Byte :=
  bytesOf utc.toNat 2 ++ [0, x.prio1, x.cqClass, x.cqAccuracy] ++ bytesOf x.cqVariance.toNat 2 ++ [x.prio2]
    ++ bytesOf x.gmId.toNat 8 ++ bytesOf x.steps.toNat 2 ++ [x.timeSrc]

/-- Stores the Announce body (R230). -/
def putAnnounce (t : Timestamp) (utc : BitVec 16) (s : State) : State :=
  setBuf (fun m => writeBytes (putTs (base s + 34) t m) (base s + 44) (announceBytes s.ann utc)) s

/-- `PK.ANN` (R230): as its own grandmaster the node computes and persists the leap offset and flags. -/
def execPkAnn (a : TsReg) (s : State) : StepOutcome :=
  command (fun s => do
    needWindow s (base s) 64
    needWf s.ts[a]
    if s.leap.localCid = s.ann.gmId then
      let p ← leapCalc s.leap s.ts[a]
      return (putAnnounce s.ts[a] p.utcOffset (persist p s), false)
    else
      return (putAnnounce s.ts[a] s.ann.utc s, false)) s

/-- The Announce registers from the bytes of the message at `off` (R234); byte 46 is not read. -/
def getAnnounce (m : Memory) (off : Nat) : Announce where
  utc := BitVec.ofNat 16 (memRead m (off + 44) 2)
  prio1 := readByte m (off + 47)
  cqClass := readByte m (off + 48)
  cqAccuracy := readByte m (off + 49)
  cqVariance := BitVec.ofNat 16 (memRead m (off + 50) 2)
  prio2 := readByte m (off + 52)
  gmId := BitVec.ofNat 64 (memRead m (off + 53) 8)
  steps := BitVec.ofNat 16 (memRead m (off + 61) 2)
  timeSrc := readByte m (off + 63)

/-- `UP.ANN` (R234). -/
def execUpAnn (d : TsReg) (s : State) : StepOutcome :=
  command (fun s => do
    needWindow s (base s + 34) 30
    return ({ setTs d (getTs s.buf (base s + 34)) s with ann := getAnnounce s.buf (base s) }, false)) s

/-! Signalling and TLVs (R238 to R243). -/

/-- `BUF_PTR <- p`. -/
def setPtr (p : Nat) (s : State) : State := { s with win := { s.win with ptr := BitVec.ofNat 16 p } }

/-- `PK.SIG` (R238). -/
def execPkSig (p : PidReg) (s : State) : StepOutcome :=
  command (fun s => do
    needHeader s
    needWindow s (base s + 34) 10
    return (setPtr (base s + 44) (setBuf (putPid (base s + 34) s.pid[p]) s), false)) s

/-- `UP.SIG` (R239). -/
def execUpSig (p : PidReg) (s : State) : StepOutcome :=
  command (fun s => do
    needWindow s (base s + 34) 10
    return (setPtr (base s + 44) (setPid p (getPid s.buf (base s + 34)) s), false)) s

/-- `PK.TLV` (R242): the whole value is read before any write. -/
def execPkTlv (s : State) : StepOutcome :=
  command (fun s => do
    let p := s.win.ptr.toNat
    let len := s.tlv.len.toNat
    let v := s.tlv.vptr.toNat
    needWindow s p (4 + len)
    ensure (decide (v + len ≤ bufBytes)) .bounds
    let bytes := bytesOf s.tlv.type.toNat 2 ++ bytesOf len 2 ++ readBytes s.buf v len
    return (setPtr (p + 4 + len) (setBuf (fun m => writeBytes m p bytes) s), false)) s

/-- `UP.TLV` (R243): the value is not copied, `TLV_VPTR` points at it. -/
def execUpTlv (s : State) : StepOutcome :=
  command (fun s => do
    let p := s.win.ptr.toNat
    needWindow s p 4
    let t := memRead s.buf p 2
    let len := memRead s.buf (p + 2) 2
    ensure (decide (t ≠ 0 ∧ len ≠ 0)) .tlv
    needWindow s (p + 4) len
    return (setPtr (p + 4 + len)
      { s with tlv := ⟨BitVec.ofNat 16 t, BitVec.ofNat 16 len, BitVec.ofNat 16 (p + 4)⟩ }, false)) s

end Sys2Proof.Machine
end

