-- ==== Sys2Proof/Machine/Filter.lean ====
section
/-! DEFINITION. The Filter unit (spec/42_filter.md R190 to R196). A filter step answers the new filter and the value it emits, if any. -/

namespace Sys2Proof.Machine

/-- The divisor of the next lowpass call (R191): up by 1 to the period, cut to the period at once. -/
def lowpassDivisor (k period : Nat) : Nat := min (if k < period then k + 1 else k) period

/-- The value of a lowpass call with divisor `k` (R191). -/
def lowpassValue (k : Nat) (y x : Int) : Int := divT ((k - 1) * y + x) k

/-- `lp_step(F, x)` (R191), for a period of at least 1. -/
def lpStep (F : Filter) (x : TimeInterval) : Filter × Option TimeInterval :=
  let k := lowpassDivisor F.k.toNat F.period.toNat
  let y := raw64 (lowpassValue k F.y.toInt x.toInt)
  ({ F with k := BitVec.ofNat 16 k, y := y }, some y)

/-- `flt_reset(F)` (R193): the configuration stays. -/
def fltReset (F : Filter) : Filter := { F with y := 0, k := 0, min := 0, max := 0, sum := 0 }

/-- The smaller of two TimeIntervals. -/
def minTi (a b : TimeInterval) : TimeInterval := if a.toInt ≤ b.toInt then a else b

/-- The larger of two TimeIntervals. -/
def maxTi (a b : TimeInterval) : TimeInterval := if a.toInt ≤ b.toInt then b else a

/-- `win_step(F, x)` (R192): at period expiry it emits the mean (`FL_DIST = 1`) or the minimum and restarts the window. -/
def winStep (F : Filter) (x : TimeInterval) : Result (Filter × Option TimeInterval) := do
  let first := F.k == 0
  let mn := if first then x else minTi F.min x
  let mx := if first then x else maxTi F.max x
  let sm ← if first then .ok x else chk (F.sum.toInt + x.toInt)
  let n := F.k.toNat + 1
  if F.period.toNat ≤ n then
    let y := if F.dist = 1 then raw64 (divT sm.toInt n) else mn
    return ({ F with y := y, k := 0, min := 0, max := 0, sum := 0 }, some y)
  else
    return ({ F with k := BitVec.ofNat 16 n, min := mn, max := mx, sum := sm }, none)

/-- `flt_step(F, x)` (R190): `E_CFG` for a period of 0, then the family that `FL_CFG.TYPE` selects. -/
def fltStep (F : Filter) (x : TimeInterval) : Result (Filter × Option TimeInterval) := do
  ensure (F.period != 0) .cfg
  if F.windowed then winStep F x else return lpStep F x

/-- `FLT.RESET` (R195). -/
def execFltReset (x : CtxId) (y : FltId) (s : State) : StepOutcome :=
  command (plain fun s => setFlt x y (fltReset s.sv[x].flt[y]) s) s

/-- `FLT.STEP` (R196): `VALID` tells whether a value was emitted; without one `ti[d]` stays. -/
def execFltStep (x : CtxId) (y : FltId) (a d : TiReg) (s : State) : StepOutcome :=
  command (fun s => do
    let (F, out) ← fltStep s.sv[x].flt[y] s.ti[a]
    match out with
    | some v => return (setTi d v (setFlt x y F s), true)
    | none => return (setFlt x y F s, false)) s

/-- `flt_reset` of both filters of a context (R264, R276, R290, R292). -/
def resetFilters (c : CtxId) (s : State) : State :=
  setFlt c 1 (fltReset s.sv[c].flt[(1 : FltId)]) (setFlt c 0 (fltReset s.sv[c].flt[(0 : FltId)]) s)

end Sys2Proof.Machine
end

