-- ==== Sys2Proof/Machine/Servo.lean ====
section
/-! DEFINITION. The Servo unit: the PID controller, the clock-lock state machine and the `SV.*` commands (spec/44_servo.md R260 to
R299). -/

namespace Sys2Proof.Machine

/-! Checks (R261, R262, R269). -/

/-- `if X ≠ SV_ACTIVE then raise E_INACTIVE` (R261). -/
def needActive (c : CtxId) (s : State) : Result Unit := ensure (decide (c = s.svActive)) .inactive

/-- `cfg_state(S)`: `E_CFG` for a reserved state number (R262). -/
def cfgState (x : Context) : Result Unit := ensure (decide (x.st.clockState.toNat ≤ 8)) .cfg

/-- `cfg_pid(S)`: `cfg_state`, and no zero divisor of an enabled term, nor of the holdover average (R262). -/
def cfgPid (x : Context) : Result Unit := do
  cfgState x
  let g := x.cfg
  ensure (!((g.pEn && g.ap == 0) || (g.iEn && g.ai == 0) || (g.dEn && g.ad == 0) || g.hoW == 0)) .cfg

/-- `lifetime_check(S)` (R269). -/
def lifetimeCheck (x : Context) : Result Unit :=
  ensure (decide (0 < x.cfg.validLft.toInt ∧ x.cfg.prefLft.toInt ≤ x.cfg.validLft.toInt)) .discard

/-- `mono_check(S, t1, t2)` (R269): both strictly later than those of the previous accepted offset sample. -/
def monoCheck (x : Context) (t1 t2 : Timestamp) : Result Unit :=
  ensure (decide (x.st.haveSample = true → tsUnits x.st.prevT1 < tsUnits t1 ∧ tsUnits x.st.prevT2 < tsUnits t2)) .discard

/-! The paired context (R291). -/

/-- The state registers `dst` with the shadow set of `src` (R291). -/
def withShadow (src dst : ServoState) : ServoState :=
  { dst with
    prop := src.prop, integral := src.integral, diff := src.diff, prevOffset := src.prevOffset, deltaT := src.deltaT
    adjAvg := src.adjAvg, hoCnt := src.hoCnt, holdoverOk := src.holdoverOk
    havePrev := src.havePrev, pidT := src.pidT, adj := src.adj, ratio := src.ratio }

/-- `mirror(c)` (R291): the shadow set of context `c` copied to the other context. -/
def mirror (c : CtxId) (s : State) : State :=
  setSt (otherCtx c) (withShadow s.sv[c].st s.sv[otherCtx c].st) s

/-! Master-to-slave delay, step path (R265, R276, R277). -/

/-- A one-way delay `ts_diff(recv, send) - corr`, unbounded (R265). -/
def oneWay (send recv : Timestamp) (corr : Int) : Int := tsDiff recv send - corr

/-- The known path delay: `have_delay = 1 ? SV_MPD : 0` (R270, R277). -/
def knownDelay (st : ServoState) : Int := if st.haveDelay then st.mpd.toInt else 0

/-- The call of the step path (R276, R277): a delta-set when the raw offset fits 64 bits, else a time-of-day set. -/
def stepCall (x : Context) (raw : Int) (t1 : Timestamp) (corr : Int) : Result Call :=
  if fits64 raw then .ok (.setTimeDelta (magnitude raw) x.cfg.domain (decide (0 < raw)))
  else do
    let t ← tsChk (tsUnits t1 + corr + knownDelay x.st)
    return .setTime t x.cfg.domain

/-- The settling state a step leads to (R276): by the stage the step was taken in. -/
def settlingAfter (old : BitVec 4) : BitVec 4 :=
  if old = csFreeRun ∨ old = csFreqLockInit ∨ old = csFSettling ∨ old = csFreqLocking then csFSettling else csPSettling

/-- The servo state a step leaves (R276): all cleared but `SV_RATIO`. -/
def steppedState (st : ServoState) : ServoState :=
  { ServoState.zero with ratio := st.ratio, clockState := settlingAfter st.clockState }

/-- `do_step(c, raw, t1, corr)` (R276). -/
def doStep (c : CtxId) (raw : Int) (t1 : Timestamp) (corr : Int) (s : State) : Result State := do
  let call ← stepCall s.sv[c] raw t1 corr
  let s := resetFilters c (setSt c (steppedState s.sv[c].st) (emit call s))
  let s ← arm (settleTimer c) s.sv[c].cfg.settleTicks.toNat false s
  return mirror c (event (evStepped ||| evStateChg) s)

/-! One evaluation of the controller (R281 to R287). -/

/-- What step 2 of R281 computes: the P and D terms, the accumulated integral and the adjustment (R283). -/
structure PidTerms where
  prop     : TimeInterval
  integral : TimeInterval
  diff     : TimeInterval
  adj      : TimeInterval
  deriving DecidableEq, Repr

/-- Step 1 of R281: the time since the previous evaluation, which must be positive; 0 at the first one. -/
def evalDelta (st : ServoState) (now : Timestamp) : Result TimeInterval :=
  if st.havePrev then do
    let dt := tsDiff now st.pidT
    ensure (decide (0 < dt)) .operand
    chk dt
  else .ok 0

/-- Whether the I term is used in clock state `s0` (R283): in phase control. -/
def usesIntegral (g : ServoConfig) (s0 : BitVec 4) : Bool :=
  g.iEn && (s0 == csPhaseLocking || s0 == csPhaseLocked || s0 == csRecovering)

/-- The D term (R283): `Δoffset / (Δt · ad)` with `Δt` in seconds, one division. -/
def diffTerm (g : ServoConfig) (st : ServoState) (off dt : Int) : Result TimeInterval :=
  if g.dEn && st.havePrev then chk (divT ((off - st.prevOffset.toInt) * oneSec) (dt * g.ad.toNat)) else .ok 0

/-- Step 2 of R281: the PID terms (R283), with `dt` of step 1. -/
def pidTerms (g : ServoConfig) (st : ServoState) (off dt : Int) : Result PidTerms := do
  let prop : Int := if g.pEn then divT off g.ap.toNat else 0
  let useI := usesIntegral g st.clockState
  let integral ← if useI then chk (st.integral.toInt + off) else .ok st.integral
  let iterm : Int := if useI then divT integral.toInt g.ai.toNat else 0
  let diff ← diffTerm g st off dt
  let adj ← chk (g.gain.toNat * (prop + iterm + diff.toInt))
  return ⟨raw64 prop, integral, diff, adj⟩

/-- `ppt(a)` (R284): a raw TimeInterval read as ns per second, in parts per trillion. -/
def ppt (a : Int) : Int := sra (a * 1000) 16

/-- Whether the frequency ratio is applied directly (R284). -/
def appliesDirect (g : ServoConfig) (off : Int) : Bool := g.oscFree || decide (g.synceThr.toInt < absI off)

/-- The calls of step 3 and the `SV_RATIO` it leaves (R284). -/
def outputCalls (g : ServoConfig) (off : Int) (ratio : Reg) : List Call × Reg :=
  if appliesDirect g off then ([.setFrequencyRatio ratio g.domain], ratio)
  else ([.setFrequencyRatio 0 g.domain, .adjustPhase (raw64 (sra off 16)) g.domain], 0)

/-- A 16-bit counter that saturates at 65535 (R285, R286). -/
def saturatingInc (n : BitVec 16) : BitVec 16 := BitVec.ofNat 16 (min (n.toNat + 1) 65535)

/-- Step 4 of R281: the stability classification (R286). -/
def classifyStability (g : ServoConfig) (off : Int) (st : ServoState) : ServoState :=
  if st.havePrev then
    if absI (off - st.prevOffset.toInt) ≤ g.stableBand.toInt then
      let n := saturatingInc st.stableCnt
      { st with stableCnt := n, unstableCnt := 0, stableOffset := if g.stableN.toNat ≤ n.toNat then true else st.stableOffset }
    else
      let n := saturatingInc st.unstableCnt
      { st with unstableCnt := n, stableCnt := 0, stableOffset := if g.unstableM.toNat ≤ n.toNat then false else st.stableOffset }
  else st

/-- Step 5 of R281: `offset_ok`, hysteretic (R287). -/
def classifyOffset (g : ServoConfig) (off : Int) (st : ServoState) : ServoState :=
  if absI off ≤ g.okThr.toInt then { st with offsetOk := true }
  else if g.failThr.toInt < absI off then { st with offsetOk := false }
  else st

/-- The decaying average of the adjustments (R285). -/
def holdoverAverage (w : Nat) (avg adj : Int) : Int := divT ((w - 1) * avg + adj) w

/-- Step 6 of R281: holdover tracking, in `PHASE_LOCKED` only (R285). -/
def trackHoldover (g : ServoConfig) (adj : Int) (st : ServoState) : ServoState :=
  if st.clockState = csPhaseLocked then
    let new := holdoverAverage g.hoW.toNat st.adjAvg.toInt adj
    let n := if absI (new - st.adjAvg.toInt) ≤ g.hoBand.toInt then saturatingInc st.hoCnt else 0
    { st with hoCnt := n, adjAvg := raw64 new, holdoverOk := decide (g.hoCount.toNat ≤ n.toNat) }
  else st

/-- Step 7 of R281: the PID columns of the transition table (R288). -/
def nextClock (s0 : BitVec 4) (good : Bool) : BitVec 4 :=
  if s0 = csFreeRun then csFreqLockInit
  else if s0 = csFreqLockInit then csFreqLocking
  else if s0 = csFreqLocking then (if good then csFreqLocked else csFreqLocking)
  else if s0 = csFreqLocked then (if good then csPhaseLocking else csFreqLocking)
  else if s0 = csPhaseLocking then (if good then csPhaseLocked else csPhaseLocking)
  else if s0 = csPhaseLocked then (if good then csPhaseLocked else csRecovering)
  else if s0 = csRecovering then (if good then csPhaseLocked else csRecovering)
  else s0

/-- The state registers after steps 1 to 8 of R281, from those of before, the values of steps 1 to 3 and the operands. -/
def evaluatedState (g : ServoConfig) (st : ServoState) (off : TimeInterval) (now : Timestamp) (dt : TimeInterval) (p : PidTerms)
    (ratio : Reg) : ServoState :=
  let st := { st with deltaT := dt, prop := p.prop, integral := p.integral, diff := p.diff, adj := p.adj, ratio := ratio }
  let st := trackHoldover g p.adj.toInt (classifyOffset g off.toInt (classifyStability g off.toInt st))
  { st with
    clockState := nextClock st.clockState (st.stableOffset && st.offsetOk)
    prevOffset := off
    pidT := now
    havePrev := true }

/-- `emit` of a list of calls, in order. -/
def emitAll (cs : List Call) (s : State) : State := cs.foldl (fun s c => emit c s) s

/-- `servo_eval(c, off, now)` (R281). -/
def servoEval (c : CtxId) (off : TimeInterval) (now : Timestamp) (s : State) : Result State := do
  let x := s.sv[c]
  let dt ← evalDelta x.st now
  let p ← pidTerms x.cfg x.st off.toInt dt.toInt
  let ratio ← chk (-ppt p.adj.toInt)
  let (calls, ratio) := outputCalls x.cfg off.toInt ratio
  let st := evaluatedState x.cfg x.st off now dt p ratio
  let s := setSt c st (emitAll calls s)
  let s := eventIf (st.holdoverOk && !x.st.holdoverOk) evHoldoverRdy s
  let s := eventIf (st.clockState != x.st.clockState) evStateChg s
  return mirror c s

/-! The commands. -/

/-- `SV.RESET` (R264). -/
def execSvReset (c : CtxId) (s : State) : StepOutcome :=
  command (plain fun s =>
    let old := s.sv[c].st.clockState
    let s := disarm (settleTimer c) (resetFilters c (setSt c ServoState.zero s))
    let s := eventIf (old != 0) evStateChg s
    if c = s.svActive then mirror c s else s) s

/-- `SV.DELAY` (R266): with R267 for the raw delay and R268 for a huge one. -/
def execSvDelay (c : CtxId) (a b : TsReg) (i : TiReg) (s : State) : StepOutcome :=
  command (fun s => do
    let x := s.sv[c]
    needActive c s
    needWf s.ts[a]
    needWf s.ts[b]
    cfgState x
    lifetimeCheck x
    ensure x.st.haveSample .discard
    let s2m := oneWay s.ts[a] s.ts[b] (tiInt s i)
    let raw := divT (x.st.m2s.toInt + s2m) 2
    if !fits64 s2m || decide (x.cfg.thrDelay.toInt ≤ absI raw) then
      return (setSt c { x.st with forceStep := true } s, false)
    else
      let (F, out) ← fltStep x.flt[(0 : FltId)] (raw64 raw)
      let s := setFlt c 0 F s
      match out with
      | some y => return (setSt c { x.st with s2m := raw64 s2m, mpd := y, haveDelay := true } s, true)
      | none => return (setSt c { x.st with s2m := raw64 s2m } s, false)) s

/-- The state registers with an accepted offset sample recorded (R270). -/
def withSample (st : ServoState) (m2s : Int) (t1 t2 : Timestamp) : ServoState :=
  { st with m2s := raw64 m2s, prevT1 := t1, prevT2 := t2, haveSample := true }

/-- The step test of R270 and R272. -/
def stepTest (x : Context) (m2s raw : Int) : Bool :=
  x.st.forceStep || !fits64 m2s || !fits64 raw
    || (x.st.clockState == csFreeRun && decide (x.cfg.thrInit.toInt ≤ absI raw))
    || (x.st.clockState != csFreeRun && decide (x.cfg.maxAdj.toInt < absI raw))

/-- `SV.OFFSET` (R270). -/
def execSvOffset (c : CtxId) (a b : TsReg) (i : TiReg) (s : State) : StepOutcome :=
  command (fun s => do
    let x := s.sv[c]
    let t1 := s.ts[a]
    let t2 := s.ts[b]
    let corr := tiInt s i
    needActive c s
    needWf t1
    needWf t2
    cfgPid x
    lifetimeCheck x
    monoCheck x t1 t2
    let m2s := oneWay t1 t2 corr
    if settling x.st.clockState then
      ensure (fits64 m2s) .discard
      return (setSt c (withSample x.st m2s t1 t2) s, false)
    else
      let raw := m2s - knownDelay x.st
      if stepTest x m2s raw then
        let s ← doStep c raw t1 corr s
        return (s, false)
      else
        let (F, out) ← fltStep x.flt[(1 : FltId)] (raw64 raw)
        let s := setFlt c 1 F (setSt c (withSample x.st m2s t1 t2) s)
        match out with
        | some y => do
          let s ← servoEval c y t2 (setSt c { withSample x.st m2s t1 t2 with offset := y } s)
          return (s, true)
        | none => return (s, false)) s

/-- `SV.PID` (R280). -/
def execSvPid (c : CtxId) (o : TiReg) (n : TsReg) (s : State) : StepOutcome :=
  command (fun s => do
    let x := s.sv[c]
    needActive c s
    needWf s.ts[n]
    cfgPid x
    if settling x.st.clockState then return (s, false)
    else
      let s ← servoEval c s.ti[o] s.ts[n] (setSt c { x.st with offset := s.ti[o] } s)
      return (s, true)) s

/-- The state registers the new context gets at a switch (R290): the shadow set and the lock state of the old one, and an empty
measurement path. -/
def switchedState (old new : ServoState) : ServoState :=
  { withShadow old new with
    clockState := old.clockState, stableOffset := old.stableOffset, offsetOk := old.offsetOk
    stableCnt := old.stableCnt, unstableCnt := old.unstableCnt
    forceStep := false, haveDelay := false, haveSample := false
    m2s := 0, s2m := 0, mpd := 0, offset := 0, prevT1 := Timestamp.zero, prevT2 := Timestamp.zero }

/-- `SV.SWITCH` (R290). -/
def execSvSwitch (s : State) : StepOutcome :=
  command (fun s => do
    let o := s.svActive
    let n := otherCtx o
    let before := s.sv[n].st.clockState
    cfgState s.sv[o]
    let s := resetFilters n (setSt n (switchedState s.sv[o].st s.sv[n].st) s)
    let s := disarm (settleTimer o) s
    let s ← if settling s.sv[n].st.clockState then arm (settleTimer n) s.sv[n].cfg.settleTicks.toNat false s else .ok s
    let s := { setSt o { s.sv[o].st with forceStep := false } s with svActive := n }
    return (eventIf (s.sv[n].st.clockState != before) evStateChg s, false)) s

/-- The servo state `SV.LOST` leaves (R292): the holdover bookkeeping and `SV_RATIO` survive. -/
def lostState (st : ServoState) : ServoState :=
  { ServoState.zero with adjAvg := st.adjAvg, hoCnt := st.hoCnt, ratio := st.ratio, holdoverOk := st.holdoverOk }

/-- Re-applying the holdover frequency when `holdover_ok` (R292). -/
def applyHoldover (c : CtxId) (s : State) : Result State :=
  let x := s.sv[c]
  if x.st.holdoverOk then do
    let r ← chk (-ppt x.st.adjAvg.toInt)
    return event evHoldoverUsed (setSt c { x.st with ratio := r } (emit (.setFrequencyRatio r x.cfg.domain) s))
  else .ok s

/-- `SV.LOST` (R292). -/
def execSvLost (c : CtxId) (s : State) : StepOutcome :=
  command (fun s => do
    needActive c s
    cfgState s.sv[c]
    let s ← applyHoldover c s
    let old := s.sv[c].st.clockState
    let s := disarm (settleTimer c) (resetFilters c (setSt c (lostState s.sv[c].st) s))
    return (mirror c (eventIf (old != 0) evStateChg s), false)) s

/-- `SV.STAT` (R294): either context. -/
def execSvStat (c : CtxId) (s : State) : StepOutcome :=
  command (plain fun s => { s with dout0 := servoStateImage s.sv[c].st, dout1 := s.sv[c].st.offset }) s

end Sys2Proof.Machine
end

