-- ==== Sys2Proof/Machine/System.lean ====
section
/-! DEFINITION. The commands that belong to no unit (spec/46_system.md R340, R341) and the `reset` transaction (R342, R380). -/

namespace Sys2Proof.Machine

/-- `NOP` (R340). -/
def execNop (s : State) : StepOutcome :=
  command (plain fun s => s) s

/-- Every CSR at its reset value (R43, R341); `BUF`, the clock-control trace and what is not state of the engine stay.
DESIGN CHOICE: `STATUS.LT` and `STATUS.EQ` go to 0 with the other bits of `STATUS`, although R25 and R130 name `TI.CMP` as the only
command that changes them (assumption log 17, unsafe). -/
def resetCsrs (s : State) : State :=
  { State.reset with buf := s.buf, trace := s.trace, result := s.result, inputs := s.inputs }

/-- `SYS.RESET` (R341). `CMDCNT = 0 + 1` and `OK = 1` come from the frame, `CMD` from the transaction. -/
def execSysReset (s : State) : StepOutcome :=
  command (plain resetCsrs) s

/-- The `reset` transaction (R342, R380, R381): the reset values, the trace emptied, the contents of `BUF` unspecified anew. -/
def resetTransaction (s : State) : State :=
  { State.reset with buf := ⟨[], s.buf.powerOn + 1⟩, inputs := s.inputs }

end Sys2Proof.Machine
end

