-- ==== Sys2Proof/Machine/TimeValue.lean ====
section
/-! DEFINITION. The TimeValue unit: the `TI.*` and `TS.*` commands (spec/40_timevalue.md R131 to R148). -/

namespace Sys2Proof.Machine

/-- A command whose result is one TimeInterval register: evaluates `f` and writes `ti[d]`. -/
def toTi (d : TiReg) (f : State → Result TimeInterval) : Body := fun s => do
  let v ← f s
  return (setTi d v s, false)

/-- `ts_diff` of two registers that must hold points in time (R146, R148): unbounded, `E_OPERAND` first. -/
def checkedDiff (a b : Timestamp) : Result Int := do
  needWf a
  needWf b
  return tsDiff a b

/-- `TI.MOV` (R131). -/
def execTiMov (d a : TiReg) (s : State) : StepOutcome :=
  command (plain fun s => setTi d s.ti[a] s) s

/-- `TI.ADD` (R132). -/
def execTiAdd (d a b : TiReg) (s : State) : StepOutcome :=
  command (toTi d fun s => chk (tiInt s a + tiInt s b)) s

/-- `TI.SUB` (R133). -/
def execTiSub (d a b : TiReg) (s : State) : StepOutcome :=
  command (toTi d fun s => chk (tiInt s a - tiInt s b)) s

/-- `TI.NEG` (R134). -/
def execTiNeg (d a : TiReg) (s : State) : StepOutcome :=
  command (toTi d fun s => chk (-tiInt s a)) s

/-- `TI.ABS` (R135). -/
def execTiAbs (d a : TiReg) (s : State) : StepOutcome :=
  command (toTi d fun s => chk (absI (tiInt s a))) s

/-- `TI.HALF` (R136): it cannot overflow. -/
def execTiHalf (d a : TiReg) (s : State) : StepOutcome :=
  command (plain fun s => setTi d (raw64 (divT (tiInt s a) 2)) s) s

/-- `TI.FROMNS` (R137). -/
def execTiFromNs (d a : TiReg) (s : State) : StepOutcome :=
  command (toTi d fun s => chk (tiInt s a * 65536)) s

/-- `TI.TONS` (R138): the floor. -/
def execTiToNs (d a : TiReg) (s : State) : StepOutcome :=
  command (plain fun s => setTi d (raw64 (sra (tiInt s a) 16)) s) s

/-- `TI.CMP` (R139). -/
def execTiCmp (a b : TiReg) (s : State) : StepOutcome :=
  command (plain fun s =>
    { s with status := statusCmp s.status (decide (tiInt s a < tiInt s b)) (decide (tiInt s a = tiInt s b)) }) s

/-- `TI.MULI` (R140): the immediate is unsigned. -/
def execTiMulI (d a : TiReg) (imm : BitVec 12) (s : State) : StepOutcome :=
  command (toTi d fun s => chk (tiInt s a * imm.toNat)) s

/-- `TI.DIVI` (R141): `E_DIV` for a zero immediate; otherwise it cannot overflow. -/
def execTiDivI (d a : TiReg) (imm : BitVec 12) (s : State) : StepOutcome :=
  command (toTi d fun s => do
    ensure (imm != 0) .div
    return raw64 (divT (tiInt s a) imm.toNat)) s

/-- `TS.MOV` (R145): all four fields, unchecked. -/
def execTsMov (d a : TsReg) (s : State) : StepOutcome :=
  command (plain fun s => setTs d s.ts[a] s) s

/-- `TS.SUB` (R146). -/
def execTsSub (d : TiReg) (a b : TsReg) (s : State) : StepOutcome :=
  command (toTi d fun s => do
    let v ← checkedDiff s.ts[a] s.ts[b]
    chk v) s

/-- `TS.ADDI` (R147). -/
def execTsAddI (d a : TsReg) (v : TiReg) (s : State) : StepOutcome :=
  command (fun s => do
    needWf s.ts[a]
    let t ← tsChk (tsUnits s.ts[a] + tiInt s v)
    return (setTs d t s, false)) s

/-- `TS.DIFFC` (R148): both steps are checked. -/
def execTsDiffC (d : TiReg) (a b : TsReg) (c : TiReg) (s : State) : StepOutcome :=
  command (toTi d fun s => do
    let v ← checkedDiff s.ts[a] s.ts[b]
    let diff ← chk v
    chk (diff.toInt - tiInt s c)) s

end Sys2Proof.Machine
end

