-- ==== Sys2Proof/Machine/Timer.lean ====
section
/-! DEFINITION. The Timer unit: the `TM.*` commands (spec/41_timer.md R170 to R185), and the expiry of a settle timer
(spec/44_servo.md R278). -/

namespace Sys2Proof.Machine

/-- `if I < 2 then raise E_CFG`: timers 0 and 1 are the servo's (R170). -/
def needGeneral (i : TmrId) : Result Unit := ensure (decide (2 ≤ i.val)) .cfg

/-- `settle_expire(c)` (R278). -/
def settleExpire (c : CtxId) (s : State) : State :=
  let st := s.sv[c].st
  if st.clockState = csFSettling then event evStateChg (setSt c { st with clockState := csFreqLocking } s)
  else if st.clockState = csPSettling then event evStateChg (setSt c { st with clockState := csPhaseLocking } s)
  else s

/-- `fire(i)` (R181): the settle action for timers 0 and 1, and the event bit `i`. -/
def fire (i : TmrId) (s : State) : State :=
  if h : i.val < 2 then event (evTimer i) (settleExpire ⟨i.val, h⟩ s) else event (evTimer i) s

/-- How many whole periods bring an expired deadline back into the future (R178, R179): the number of turns of the loop of R178. -/
def periodsDue (deadline period now : Nat) : Nat := (now - deadline) / period + 1

/-- The record of an expired timer after its firing (R178): a periodic one advanced by whole periods, a one-shot removed. -/
def expiredTimer (t : Timer) (now : Nat) : Result Timer :=
  let fired := { t with fireCnt := t.fireCnt + 1 }
  if t.periodic then do
    ensure (t.periodUs != 0) .cfg
    let n := periodsDue t.deadlineUs.toNat t.periodUs.toNat now
    let d := t.deadlineUs.toNat + n * t.periodUs.toNat
    ensure (decide (d < 2 ^ 64)) .ovf
    return { fired with deadlineUs := BitVec.ofNat 64 d, lossCnt := t.lossCnt + BitVec.ofNat 32 (n - 1) }
  else return { fired with armed := false }

/-- One timer's part of a tick (R178): the state, and whether a timer has fired so far. -/
def tickOne (now : Nat) (acc : State × Bool) (i : TmrId) : Result (State × Bool) :=
  let (s, fired) := acc
  let t := s.tm[i]
  if t.armed && t.stopPending then .ok (disarm i s, fired)
  else if t.armed && decide (t.deadlineUs.toNat ≤ now) then do
    let t' ← expiredTimer t now
    return (fire i (setTimer i t' s), true)
  else .ok (s, fired)

/-- All timers, in the order a tick visits them (R180). -/
def allTimers : List TmrId := [0, 1, 2, 3, 4, 5, 6, 7]

/-- The soonest deadline of the armed timers that are not being stopped, `2^64 - 1` when there is none (R178). -/
def nextTimeout (s : State) : Nat :=
  allTimers.foldl (fun m i =>
    let t := s.tm[i]
    if t.armed && !t.stopPending then min m t.deadlineUs.toNat else m) (2 ^ 64 - 1)

/-- `TM.INIT` (R172). -/
def execTmInit (i : TmrId) (inst : BitVec 8) (s : State) : StepOutcome :=
  command (fun s => do
    needGeneral i
    ensure (!s.tm[i].armed) .cfg
    return (setTimer i { s.tm[i] with
      init := true, armed := false, periodic := false, stopPending := false, inst := inst, fireCnt := 0, lossCnt := 0 } s, false)) s

/-- `TM.START` (R174). -/
def execTmStart (i : TmrId) (a : TiReg) (rep : Bool) (s : State) : StepOutcome :=
  command (fun s => do
    needGeneral i
    ensure s.tm[i].init .cfg
    let ticks := tiNat s a
    ensure (decide (ticks < 2 ^ 32)) .operand
    ensure (!(rep && ticks == 0)) .cfg
    let s ← arm i ticks rep s
    return (s, false)) s

/-- `TM.STOP` (R176): lazy removal. -/
def execTmStop (i : TmrId) (s : State) : StepOutcome :=
  command (fun s => do
    needGeneral i
    if s.tm[i].armed then return (setTimer i { s.tm[i] with stopPending := true } s, false)
    else return (s, false)) s

/-- `TM.TICK` (R178). -/
def execTmTick (a : TiReg) (s : State) : StepOutcome :=
  command (fun s => do
    let now := tiNat s a
    ensure (decide (s.nowUs.toNat ≤ now)) .operand
    let (s, fired) ← allTimers.foldlM (tickOne now) ({ s with nowUs := BitVec.ofNat 64 now }, false)
    let next := BitVec.ofNat 64 (nextTimeout s)
    return ({ s with tmNext := next, dout0 := next }, fired)) s

end Sys2Proof.Machine
end

