-- ==== Sys2Proof/Machine/Dispatch.lean ====
section
/-! DEFINITION. One arm per command: the meaning it calls. -/

namespace Sys2Proof.Machine

/-- The meaning of every command of R104. -/
def exec (i : Instr) (s : State) : Host.Outcome State Fault Refusal :=
  match i with
  | .nop => Sys2Proof.Machine.execNop s
  | .tiMov dst src => Sys2Proof.Machine.execTiMov dst src s
  | .tiAdd dst src1 src2 => Sys2Proof.Machine.execTiAdd dst src1 src2 s
  | .tiSub dst src1 src2 => Sys2Proof.Machine.execTiSub dst src1 src2 s
  | .tiNeg dst src => Sys2Proof.Machine.execTiNeg dst src s
  | .tiAbs dst src => Sys2Proof.Machine.execTiAbs dst src s
  | .tiHalf dst src => Sys2Proof.Machine.execTiHalf dst src s
  | .tiFromNs dst src => Sys2Proof.Machine.execTiFromNs dst src s
  | .tiToNs dst src => Sys2Proof.Machine.execTiToNs dst src s
  | .tiCmp src1 src2 => Sys2Proof.Machine.execTiCmp src1 src2 s
  | .tiMulI dst src imm => Sys2Proof.Machine.execTiMulI dst src imm s
  | .tiDivI dst src imm => Sys2Proof.Machine.execTiDivI dst src imm s
  | .tsMov dst src => Sys2Proof.Machine.execTsMov dst src s
  | .tsSub dst src1 src2 => Sys2Proof.Machine.execTsSub dst src1 src2 s
  | .tsAddI dst src val => Sys2Proof.Machine.execTsAddI dst src val s
  | .tsDiffC dst src1 src2 corr => Sys2Proof.Machine.execTsDiffC dst src1 src2 corr s
  | .fltReset ctx flt => Sys2Proof.Machine.execFltReset ctx flt s
  | .fltStep ctx flt src dst => Sys2Proof.Machine.execFltStep ctx flt src dst s
  | .svReset ctx => Sys2Proof.Machine.execSvReset ctx s
  | .svDelay ctx send recv corr => Sys2Proof.Machine.execSvDelay ctx send recv corr s
  | .svOffset ctx send recv corr => Sys2Proof.Machine.execSvOffset ctx send recv corr s
  | .svPid ctx off now => Sys2Proof.Machine.execSvPid ctx off now s
  | .svSwitch => Sys2Proof.Machine.execSvSwitch s
  | .svLost ctx => Sys2Proof.Machine.execSvLost ctx s
  | .svStat ctx => Sys2Proof.Machine.execSvStat ctx s
  | .pkHdr => Sys2Proof.Machine.execPkHdr s
  | .upHdr => Sys2Proof.Machine.execUpHdr s
  | .pkTs src => Sys2Proof.Machine.execPkTs src s
  | .upTs dst => Sys2Proof.Machine.execUpTs dst s
  | .pkPd src pid => Sys2Proof.Machine.execPkPd src pid s
  | .upPd dst pid => Sys2Proof.Machine.execUpPd dst pid s
  | .pkAnn origin => Sys2Proof.Machine.execPkAnn origin s
  | .upAnn dst => Sys2Proof.Machine.execUpAnn dst s
  | .pkSig pid => Sys2Proof.Machine.execPkSig pid s
  | .upSig pid => Sys2Proof.Machine.execUpSig pid s
  | .pkTlv => Sys2Proof.Machine.execPkTlv s
  | .upTlv => Sys2Proof.Machine.execUpTlv s
  | .ccFreq ratio dom => Sys2Proof.Machine.execCcFreq ratio dom s
  | .ccSetTime time dom => Sys2Proof.Machine.execCcSetTime time dom s
  | .ccDelta delta dom => Sys2Proof.Machine.execCcDelta delta dom s
  | .ccPhase ns dom => Sys2Proof.Machine.execCcPhase ns dom s
  | .ccGetTime dst dom => Sys2Proof.Machine.execCcGetTime dst dom s
  | .tmInit tmr inst => Sys2Proof.Machine.execTmInit tmr inst s
  | .tmStart tmr ticks rep => Sys2Proof.Machine.execTmStart tmr ticks rep s
  | .tmStop tmr => Sys2Proof.Machine.execTmStop tmr s
  | .tmTick now => Sys2Proof.Machine.execTmTick now s
  | .sysReset => Sys2Proof.Machine.execSysReset s

end Sys2Proof.Machine
end

