-- ==== Sys2Proof/Machine/Transact.lean ====
section
/-! DEFINITION. The host's transactions (spec/46_system.md R342): a read or write of one CSR, the write of `CMD` that decodes and runs
a command (R24, R103), and the reset; and which transaction comes next. There is no fetch from a memory (R93). -/

namespace Sys2Proof.Machine

/-- A change of the state that a step answers, on every outcome that has a state. -/
def mapNext (f : State → State) : StepOutcome → StepOutcome
  | .next s => .next (f s)
  | .fault r => .fault r
  | .refused r => .refused r

/-- The end of `wr CMD, v` (R24, R342): `CMD` holds the written word, and the transaction answers no value. -/
def latchCmd (w : CommandWord) (s : State) : State := { s with cmd := w, result := none }

/-- `wr CMD, v` (R24, R342): bits 31..0 of `v` are decoded and the command executed completely; an illegal word ends in `E_ILLEGAL`
(R103). That `CMD` is written last is no difference: no command reads it, and after `SYS.RESET` it holds its own word (R341). -/
def runWord (w : CommandWord) (s : State) : StepOutcome :=
  match decode w with
  | some i => mapNext (latchCmd w) (exec i s)
  | none => .next (latchCmd w (takeError .illegal s))

/-- One transaction (R342); what a `rd` answers to the host stands in `result` afterwards. -/
def transact (t : Txn) (s : State) : StepOutcome :=
  match t with
  | .rd n =>
    let (v, s) := csrRead n s
    .next { s with result := some v }
  | .wr n v => if n = csrCmd then runWord (v.setWidth 32) s else .next { csrWrite n v s with result := none }
  | .reset => .next (resetTransaction s)

/-- The host's next transactions without the first one. -/
def popTxn (rest : List Txn) (s : State) : State := { s with inputs := { s.inputs with pending := rest } }

/-- One step: the next transaction of the host; with none pending the engine waits, unchanged (R370). Assumption log 4. -/
def stepMachine (s : State) : StepOutcome :=
  match s.inputs.pending with
  | [] => .next s
  | t :: rest => transact t (popTxn rest s)

/-- The transactions that come first in the queue. -/
def enqueue (ts : List Txn) (s : State) : State := { s with inputs := { s.inputs with pending := ts ++ s.inputs.pending } }

/-- `wr CMD, w`, as a host issues it for a command word. -/
def commandTxn (w : CommandWord) : Txn := .wr csrCmd (w.setWidth 64)

end Sys2Proof.Machine
end

