-- ==== Sys2Proof/Machine/Step.lean ====
section
/-! DEFINITION. The step of the engine: one host transaction (spec/46_system.md R342, spec/20_memory.md R94). -/

namespace Sys2Proof.Machine

/-- One step: the host's next transaction, run to its end. -/
def step (s : State) : Host.Outcome State Fault Refusal := stepMachine s

/-- The state whose next transaction is `wr CMD, w`, for the command word the host's opcode table numbers `w`: commands come from the
host's writes to `CMD`, so this is where the next command is "fetched" (R93). Assumption log 4. -/
def State.withFetchWord (s : State) (nbits w : Nat) : State :=
  enqueue [commandTxn (BitVec.ofNat 32 (w % 2 ^ nbits))] s

end Sys2Proof.Machine
end

