-- ==== Sys2Proof/Safety.lean ====
section
/-! DEFINITION. The words the claims are made in: what it means that a command completes or raises an error, and the tables and
formulas of the spec written once more, as tables and over unbounded integers, so that a claim does not repeat a meaning's own code. -/

namespace Sys2Proof.Machine

/-! How a command ends (spec/40_timevalue.md R130, spec/60_exceptions.md R352). -/

/-- The command completes: the next state is `t`, with `CMDCNT` advanced and `STATUS` showing success. `LT` and `EQ` are those of `t`. -/
def Completes (i : Instr) (valid : Bool) (s t : State) : Prop :=
  exec i s = .next { t with cmdCnt := s.cmdCnt + 1, status := ⟨true, valid, t.status.lt, t.status.eq, 0⟩ }

/-- The command raises the error with this code: `CMDCNT` and `STATUS` change and nothing else does. -/
def Raises (i : Instr) (code : BitVec 8) (s : State) : Prop :=
  exec i s = .next { s with cmdCnt := s.cmdCnt + 1, status := ⟨false, false, s.status.lt, s.status.eq, code⟩ }

/-- The command answers a next state, whichever. -/
def Answers (i : Instr) (s t : State) : Prop := exec i s = .next t

/-! Command words (R100). -/

/-- The word with these fields, as a sum: `op` from bit 24, `a` from 20, `b` from 16, `c` from 12, `imm` from 0. -/
def commandWord (op a b c imm : Nat) : CommandWord :=
  BitVec.ofNat 32 (op * 16777216 + a * 1048576 + b * 65536 + c * 4096 + imm)

/-- The reserved opcode ranges, as R103 lists them. -/
def reservedOpcodes : List (Nat × Nat) :=
  [(0x0C, 0x0F), (0x14, 0x1F), (0x22, 0x2F), (0x37, 0x3F), (0x4C, 0x4F), (0x55, 0x5F), (0x64, 0x7E), (0x80, 0xFF)]

/-! Numbers (R11, R13). -/

/-- The integer is a signed 64-bit value. -/
def Fits (v : Int) : Prop := -9223372036854775808 ≤ v ∧ v ≤ 9223372036854775807

/-- The position is on the axis of 48-bit seconds. -/
def OnAxis (u : Int) : Prop := 0 ≤ u ∧ u < 281474976710656 * 1000000000 * 65536

/-- The Timestamp is a point in time. -/
def WellFormed (t : Timestamp) : Prop := t.ns.toNat < 1000000000

/-- A Timestamp's position, in units of 2^-16 ns. -/
def position (t : Timestamp) : Int :=
  ((t.secMsb.toNat * 4294967296 + t.sec.toNat) * 1000000000 + t.ns.toNat) * 65536 + t.frac.toNat

/-- `ti[d] <- chk(v)`: the exact integer arrives in the register, or the command ends with `E_OVF`. -/
def ChecksInto (i : Instr) (d : TiReg) (v : Int) (s : State) : Prop :=
  (Fits v → ∃ x : TimeInterval, x.toInt = v ∧ Completes i false s (setTi d x s)) ∧ (¬ Fits v → Raises i 2 s)

/-! The buffer (R72, R74, R110 to R115). -/

/-- `win(off, n)` (R74). -/
def InWindow (s : State) (off n : Nat) : Prop :=
  s.win.base.toNat ≤ s.win.limit.toNat ∧ s.win.limit.toNat ≤ 2048 ∧ s.win.base.toNat ≤ off ∧ off + n ≤ s.win.limit.toNat

/-- Byte `k` of a value of `width` bytes, most significant first. -/
def beByte (width v k : Nat) : Byte := BitVec.ofNat 8 (v / 256 ^ (width - 1 - k))

/-- The `n` bytes at `a` of `m'` are given by `f`, every other byte is that of `m`. -/
def StoredAs (m m' : Memory) (a n : Nat) (f : Nat → Byte) : Prop :=
  ∀ x, readByte m' x = if a ≤ x ∧ x < a + n then f (x - a) else readByte m x

/-- Byte `k` of the header (the table of R110). -/
def headerByteAt (h : Header) (k : Nat) : Byte :=
  if k = 0 then BitVec.ofNat 8 (h.transport.toNat * 16 + h.msgType.toNat)
  else if k = 1 then BitVec.ofNat 8 (h.minor.toNat * 16 + h.version.toNat)
  else if k < 4 then beByte 2 h.length.toNat (k - 2)
  else if k = 4 then h.domain
  else if k = 5 then 0
  else if k < 8 then beByte 2 h.flags.toNat (k - 6)
  else if k < 16 then beByte 8 h.corr.toNat (k - 8)
  else if k < 20 then 0
  else if k < 28 then beByte 8 h.srcCid.toNat (k - 20)
  else if k < 30 then beByte 2 h.srcPort.toNat (k - 28)
  else if k < 32 then beByte 2 h.seq.toNat (k - 30)
  else if k = 32 then h.ctrl
  else h.logInt

/-- Byte `k` of a Timestamp on the wire (R111). -/
def tsByteAt (t : Timestamp) (k : Nat) : Byte :=
  if k < 2 then beByte 2 t.secMsb.toNat k
  else if k < 6 then beByte 4 t.sec.toNat (k - 2)
  else beByte 4 t.ns.toNat (k - 6)

/-- Byte `k` of a port identity on the wire (R112). -/
def pidByteAt (p : PortId) (k : Nat) : Byte :=
  if k < 8 then beByte 8 p.cid.toNat k else beByte 2 p.port.toNat (k - 8)

/-- Byte `k` of the Announce body, counted from byte 34 of the message (the table of R115). -/
def announceByteAt (x : Announce) (t : Timestamp) (utc : BitVec 16) (k : Nat) : Byte :=
  if k < 10 then tsByteAt t k
  else if k < 12 then beByte 2 utc.toNat (k - 10)
  else if k = 12 then 0
  else if k = 13 then x.prio1
  else if k = 14 then x.cqClass
  else if k = 15 then x.cqAccuracy
  else if k < 18 then beByte 2 x.cqVariance.toNat (k - 16)
  else if k = 18 then x.prio2
  else if k < 27 then beByte 8 x.gmId.toNat (k - 19)
  else if k < 29 then beByte 2 x.steps.toNat (k - 27)
  else x.timeSrc

/-- The byte ranges, as first offset and length, that a command stores to when it completes (the `PK.*` rules of
spec/43_codec.md). -/
def storedRanges (i : Instr) (s : State) : List (Nat × Nat) :=
  let b := s.win.base.toNat
  match i with
  | .pkHdr => [(b, 34)]
  | .pkTs _ => [(b + 34, 10)]
  | .pkPd _ _ => [(b + 34, 20)]
  | .pkAnn _ => if s.leap.localCid = s.ann.gmId then [(b + 7, 1), (b + 34, 30)] else [(b + 34, 30)]
  | .pkSig _ => [(b + 34, 10)]
  | .pkTlv => [(s.win.ptr.toNat, 4 + s.tlv.len.toNat)]
  | .nop | .tiMov .. | .tiAdd .. | .tiSub .. | .tiNeg .. | .tiAbs .. | .tiHalf .. | .tiFromNs .. | .tiToNs .. | .tiCmp ..
  | .tiMulI .. | .tiDivI .. | .tsMov .. | .tsSub .. | .tsAddI .. | .tsDiffC .. | .fltReset .. | .fltStep .. | .svReset ..
  | .svDelay .. | .svOffset .. | .svPid .. | .svSwitch | .svLost .. | .svStat .. | .upHdr | .upTs .. | .upPd .. | .upAnn ..
  | .upSig .. | .upTlv | .ccFreq .. | .ccSetTime .. | .ccDelta .. | .ccPhase .. | .ccGetTime .. | .tmInit .. | .tmStart ..
  | .tmStop .. | .tmTick .. | .sysReset => []

/-- The leap computation (R231), over integers: the offset to transmit, and the two flags. `sec` is the origin's whole seconds. -/
def leapRule (g : LeapConfig) (sec : Int) : Int × Bool × Bool :=
  let cfg := g.utc.toInt
  let instant : Int := g.leapDate.toNat * 86400
  if g.leapType = 1 ∧ instant ≤ sec - cfg then (cfg - 1, false, false)
  else if g.leapType = 2 ∧ instant ≤ sec - cfg then (cfg + 1, false, false)
  else if g.leapType = 1 ∧ instant - 86400 ≤ sec - cfg then (cfg, true, false)
  else if g.leapType = 2 ∧ instant - 86400 ≤ sec - cfg then (cfg, false, true)
  else (cfg, false, false)

/-- A 16-bit UTC offset. -/
def FitsUtc (v : Int) : Prop := -32768 ≤ v ∧ v ≤ 32767

/-! The CSR map (R44): access classes, defined bits, reset values (R43). -/

/-- Whether R44 lists the number. -/
def csrListed (n : Nat) : Bool :=
  n ≤ 0x005 || (0x008 ≤ n && n ≤ 0x009) || (0x010 ≤ n && n ≤ 0x017) || (0x020 ≤ n && n ≤ 0x027) || (0x030 ≤ n && n ≤ 0x033)
    || (0x040 ≤ n && n ≤ 0x049) || (0x050 ≤ n && n ≤ 0x056) || (0x058 ≤ n && n ≤ 0x05B) || (0x060 ≤ n && n ≤ 0x062)
    || (0x068 ≤ n && n ≤ 0x06D) || (0x0E0 ≤ n && n ≤ 0x0E4) || n == 0x0F0
    || (0x100 ≤ n && n ≤ 0x17F && (n % 0x40 ≤ 0x13 || (0x18 ≤ n % 0x40 && n % 0x40 ≤ 0x2D) || 0x30 ≤ n % 0x40))
    || n == 0x1F0 || n == 0x1F1 || (0x200 ≤ n && n ≤ 0x23F && n % 8 ≤ 5)

/-- The read-only numbers of R44. -/
def csrReadOnly (n : Nat) : Bool :=
  n == 0x001 || n == 0x004 || n == 0x005 || n == 0x008 || n == 0x009 || n == 0x06B || (0x0E0 ≤ n && n ≤ 0x0E4) || n == 0x1F1

/-- The read-write numbers of R44 whose access is plain storage: not `CMD`, `EVT` and `BUF_DATA`. -/
def csrPlain (n : Nat) : Bool := csrListed n && !csrReadOnly n && n != 0x000 && n != 0x002 && n != 0x06D

/-- The defined bits of a plain CSR inside a servo context, by its offset (R36, R37, R38). -/
def contextMask (k : Nat) : Reg :=
  if k = 0x00 then 0xF
  else if k ≤ 0x04 then 0xFFFF
  else if k ≤ 0x07 then 0xFFFFFFFFFFFFFFFF
  else if k ≤ 0x09 then 0xFFFF
  else if k ≤ 0x0C then 0xFFFFFFFFFFFFFFFF
  else if k ≤ 0x0E then 0xFFFF
  else if k = 0x0F then 0xFFFFFFFF
  else if k = 0x12 then 0xFF
  else if k = 0x18 then 0x7FF
  else if k = 0x1F ∨ k = 0x20 ∨ k = 0x21 then 0xFFFF
  else if k = 0x26 ∨ k = 0x2A ∨ k = 0x2C then 0xFFFFFFFF0000FFFF
  else if k = 0x27 ∨ k = 0x2B ∨ k = 0x2D then 0x0000FFFFFFFFFFFF
  else if k = 0x30 ∨ k = 0x38 then 0x1
  else if k = 0x31 ∨ k = 0x32 ∨ k = 0x34 ∨ k = 0x39 ∨ k = 0x3A ∨ k = 0x3C then 0xFFFF
  else 0xFFFFFFFFFFFFFFFF

/-- The defined bits of a plain CSR (R21 to R39). -/
def csrMask (n : Nat) : Reg :=
  if n = 0x003 then 0xFFF
  else if 0x020 ≤ n ∧ n ≤ 0x027 then (if n % 2 = 0 then 0xFFFFFFFF0000FFFF else 0x0000FFFFFFFFFFFF)
  else if n = 0x031 ∨ n = 0x033 then 0xFFFF
  else if n = 0x040 ∨ n = 0x041 ∨ n = 0x043 ∨ n = 0x046 ∨ n = 0x047 then 0xFFFF
  else if n = 0x042 ∨ n = 0x048 ∨ n = 0x049 then 0xFF
  else if n = 0x050 ∨ n = 0x055 then 0xFFFF
  else if n = 0x051 ∨ n = 0x053 ∨ n = 0x056 then 0xFF
  else if n = 0x052 then 0xFFFFFFFF
  else if n = 0x059 then 0xFFFF
  else if n = 0x05A then 0x3FFFFFFFF
  else if n = 0x05B then 0x3FFFF
  else if 0x060 ≤ n ∧ n ≤ 0x06C then 0xFFFF
  else if n = 0x0F0 then 0x1
  else if 0x100 ≤ n ∧ n ≤ 0x17F then contextMask (n % 0x40)
  else if 0x200 ≤ n ∧ n % 8 = 0 then 0xFF0F
  else if 0x200 ≤ n ∧ (n % 8 = 1 ∨ n % 8 = 4 ∨ n % 8 = 5) then 0xFFFFFFFF
  else 0xFFFFFFFFFFFFFFFF

/-- What each CSR reads after reset (the table of R43); `BUF_DATA` reads an unspecified byte and is left out of the claims. -/
def csrResetValue (n : Nat) : Reg :=
  if n = 0x004 then 0x0000000050534507
  else if n = 0x110 ∨ n = 0x111 ∨ n = 0x150 ∨ n = 0x151 then 0x000017D784000000
  else if n = 0x113 ∨ n = 0x153 then 0x000000007FFFFFFF
  else if n = 0x1F1 then 0xFFFFFFFFFFFFFFFF
  else if n = 0x200 ∨ n = 0x208 then 0x0000000000000001
  else 0

/-! What each CSR shows (R21 to R40, R44), field by field. -/

/-- Bits `lo + width - 1 .. lo` of the CSR with number `num` show the number `value`. -/
structure CsrField where
  num   : Nat
  lo    : Nat
  width : Nat
  value : Nat
  deriving DecidableEq, Repr

/-- A field that shows a bit vector, `lo` being its lowest bit's place. -/
def bitsAt (num lo : Nat) {w : Nat} (v : BitVec w) : CsrField := ⟨num, lo, w, v.toNat⟩

/-- A field that shows one bit. -/
def oneBit (num lo : Nat) (b : Bool) : CsrField := ⟨num, lo, 1, b.toNat⟩

/-- A Timestamp in the CSRs `num` and `num + 1` (the layout of R22). -/
def timestampFields (num : Nat) (t : Timestamp) : List CsrField :=
  [bitsAt num 0 t.frac, bitsAt num 32 t.ns, bitsAt (num + 1) 0 t.sec, bitsAt (num + 1) 32 t.secMsb]

/-- `0x000 .. 0x009`: the stored and the live fields of `STATUS` (R25), and the other system registers (R24 to R28). -/
def systemFields (s : State) : List CsrField :=
  let live := s.sv[s.svActive].st
  [bitsAt 0x000 0 s.cmd,
   oneBit 0x001 0 s.status.ok, oneBit 0x001 1 s.status.valid, oneBit 0x001 2 s.status.lt, oneBit 0x001 3 s.status.eq,
   bitsAt 0x001 8 s.status.err, bitsAt 0x001 16 live.clockState, oneBit 0x001 20 live.stableOffset, oneBit 0x001 21 live.offsetOk,
   oneBit 0x001 22 live.holdoverOk, ⟨0x001, 23, 1, s.svActive.val⟩,
   oneBit 0x001 24 (decide (live.clockState.toNat = 2 ∨ live.clockState.toNat = 6)),
   bitsAt 0x002 0 s.evt, bitsAt 0x003 0 s.evtMask, ⟨0x004, 0, 64, 0x50534507⟩, bitsAt 0x005 0 s.cmdCnt, bitsAt 0x008 0 s.dout0,
   bitsAt 0x009 0 s.dout1]

/-- `0x010 .. 0x033`: the operand registers (R21, R22, R23). -/
def operandFields (s : State) : List CsrField :=
  ((List.finRange 8).map fun i => bitsAt (0x010 + i.val) 0 s.ti[i])
    ++ ((List.finRange 4).flatMap fun k => timestampFields (0x020 + 2 * k.val) s.ts[k])
    ++ ((List.finRange 2).flatMap fun k => [bitsAt (0x030 + 2 * k.val) 0 s.pid[k].cid, bitsAt (0x031 + 2 * k.val) 0 s.pid[k].port])

/-- `0x040 .. 0x062`: the message registers (R30 to R33). -/
def messageFields (s : State) : List CsrField :=
  [bitsAt 0x040 0 s.hdr.msgType, bitsAt 0x040 4 s.hdr.transport, bitsAt 0x040 8 s.hdr.version, bitsAt 0x040 12 s.hdr.minor,
   bitsAt 0x041 0 s.hdr.length, bitsAt 0x042 0 s.hdr.domain, bitsAt 0x043 0 s.hdr.flags, bitsAt 0x044 0 s.hdr.corr,
   bitsAt 0x045 0 s.hdr.srcCid, bitsAt 0x046 0 s.hdr.srcPort, bitsAt 0x047 0 s.hdr.seq, bitsAt 0x048 0 s.hdr.ctrl,
   bitsAt 0x049 0 s.hdr.logInt,
   bitsAt 0x050 0 s.ann.utc, bitsAt 0x051 0 s.ann.prio1, bitsAt 0x052 0 s.ann.cqClass, bitsAt 0x052 8 s.ann.cqAccuracy,
   bitsAt 0x052 16 s.ann.cqVariance, bitsAt 0x053 0 s.ann.prio2, bitsAt 0x054 0 s.ann.gmId, bitsAt 0x055 0 s.ann.steps,
   bitsAt 0x056 0 s.ann.timeSrc,
   bitsAt 0x058 0 s.leap.localCid, bitsAt 0x059 0 s.leap.utc, bitsAt 0x05A 0 s.leap.leapDate, bitsAt 0x05A 32 s.leap.leapType,
   bitsAt 0x05B 0 s.tp.utcOffset, oneBit 0x05B 16 s.tp.leap59, oneBit 0x05B 17 s.tp.leap61,
   bitsAt 0x060 0 s.tlv.type, bitsAt 0x061 0 s.tlv.len, bitsAt 0x062 0 s.tlv.vptr]

/-- `0x068 .. 0x06D`: the window registers (R34). -/
def windowFields (s : State) : List CsrField :=
  [bitsAt 0x068 0 s.win.base, bitsAt 0x069 0 s.win.limit, bitsAt 0x06A 0 s.win.ptr, oneBit 0x06B 0 s.win.hdrPacked,
   bitsAt 0x06C 0 s.win.addr,
   ⟨0x06D, 0, 8, if s.win.addr.toNat < 2048 then (readByte s.buf s.win.addr.toNat).toNat else 0⟩]

/-- `0x0E0 .. 0x0F0`, `0x1F0`, `0x1F1`: the clock-control record (R40), `SV_ACTIVE` (R35), the time base (R39). -/
def portFields (s : State) : List CsrField :=
  [bitsAt 0x0E0 0 s.cc.count, bitsAt 0x0E1 0 s.cc.op, oneBit 0x0E1 3 s.cc.negative, bitsAt 0x0E1 8 s.cc.domain,
   bitsAt 0x0E2 0 s.cc.arg0, bitsAt 0x0E3 0 s.cc.arg1, bitsAt 0x0E4 0 s.cc.tickCnt, ⟨0x0F0, 0, 1, s.svActive.val⟩,
   bitsAt 0x1F0 0 s.nowUs, bitsAt 0x1F1 0 s.tmNext]

/-- The configuration registers of a context that starts at `b` (R36). -/
def servoConfigFields (b : Nat) (g : ServoConfig) : List CsrField :=
  [oneBit b 0 g.pEn, oneBit b 1 g.iEn, oneBit b 2 g.dEn, oneBit b 3 g.oscFree, bitsAt (b + 0x01) 0 g.gain, bitsAt (b + 0x02) 0 g.ap,
   bitsAt (b + 0x03) 0 g.ai, bitsAt (b + 0x04) 0 g.ad, bitsAt (b + 0x05) 0 g.maxAdj, bitsAt (b + 0x06) 0 g.synceThr,
   bitsAt (b + 0x07) 0 g.stableBand, bitsAt (b + 0x08) 0 g.stableN, bitsAt (b + 0x09) 0 g.unstableM, bitsAt (b + 0x0A) 0 g.okThr,
   bitsAt (b + 0x0B) 0 g.failThr, bitsAt (b + 0x0C) 0 g.hoBand, bitsAt (b + 0x0D) 0 g.hoCount, bitsAt (b + 0x0E) 0 g.hoW,
   bitsAt (b + 0x0F) 0 g.settleTicks, bitsAt (b + 0x10) 0 g.thrInit, bitsAt (b + 0x11) 0 g.thrDelay, bitsAt (b + 0x12) 0 g.domain,
   bitsAt (b + 0x13) 0 g.validLft, bitsAt (b + 0x13) 32 g.prefLft]

/-- The state registers of a context that starts at `b` (R37). -/
def servoStateFields (b : Nat) (x : ServoState) : List CsrField :=
  [bitsAt (b + 0x18) 0 x.clockState, oneBit (b + 0x18) 4 x.stableOffset, oneBit (b + 0x18) 5 x.offsetOk,
   oneBit (b + 0x18) 6 x.holdoverOk, oneBit (b + 0x18) 7 x.forceStep, oneBit (b + 0x18) 8 x.havePrev,
   oneBit (b + 0x18) 9 x.haveDelay, oneBit (b + 0x18) 10 x.haveSample, bitsAt (b + 0x19) 0 x.prop, bitsAt (b + 0x1A) 0 x.integral,
   bitsAt (b + 0x1B) 0 x.diff, bitsAt (b + 0x1C) 0 x.prevOffset, bitsAt (b + 0x1D) 0 x.deltaT, bitsAt (b + 0x1E) 0 x.adjAvg,
   bitsAt (b + 0x1F) 0 x.hoCnt, bitsAt (b + 0x20) 0 x.stableCnt, bitsAt (b + 0x21) 0 x.unstableCnt, bitsAt (b + 0x22) 0 x.m2s,
   bitsAt (b + 0x23) 0 x.s2m, bitsAt (b + 0x24) 0 x.mpd, bitsAt (b + 0x25) 0 x.offset, bitsAt (b + 0x28) 0 x.adj,
   bitsAt (b + 0x29) 0 x.ratio]
    ++ timestampFields (b + 0x26) x.prevT2 ++ timestampFields (b + 0x2A) x.prevT1 ++ timestampFields (b + 0x2C) x.pidT

/-- The registers of a filter that starts at `b` (R38). -/
def filterFields (b : Nat) (x : Filter) : List CsrField :=
  [oneBit b 0 x.windowed, bitsAt (b + 1) 0 x.period, bitsAt (b + 2) 0 x.dist, bitsAt (b + 3) 0 x.y, bitsAt (b + 4) 0 x.k,
   bitsAt (b + 5) 0 x.min, bitsAt (b + 6) 0 x.max, bitsAt (b + 7) 0 x.sum]

/-- The registers of a context that starts at `b` (R35). -/
def contextFields (b : Nat) (x : Context) : List CsrField :=
  servoConfigFields b x.cfg ++ servoStateFields b x.st ++ (List.finRange 2).flatMap fun f => filterFields (b + 0x30 + 8 * f.val) x.flt[f]

/-- The registers of a timer that starts at `b` (R39). -/
def timerFields (b : Nat) (x : Timer) : List CsrField :=
  [oneBit b 0 x.init, oneBit b 1 x.armed, oneBit b 2 x.periodic, oneBit b 3 x.stopPending, bitsAt b 8 x.inst,
   bitsAt (b + 1) 0 x.periodTicks, bitsAt (b + 2) 0 x.periodUs, bitsAt (b + 3) 0 x.deadlineUs, bitsAt (b + 4) 0 x.fireCnt,
   bitsAt (b + 5) 0 x.lossCnt]

/-- Every field of every CSR (R44). -/
def csrFields (s : State) : List CsrField :=
  systemFields s ++ operandFields s ++ messageFields s ++ windowFields s ++ portFields s
    ++ ((List.finRange 2).flatMap fun c => contextFields (0x100 + 0x40 * c.val) s.sv[c])
    ++ ((List.finRange 8).flatMap fun i => timerFields (0x200 + 8 * i.val) s.tm[i])

/-- A write of `n` is seen in a read of another number `m`: `BUF_BASE` clears `BUF_STAT`, `BUF_ADDR` moves the byte `BUF_DATA` reads,
`BUF_DATA` advances `BUF_ADDR` (R34), and `SV_ACTIVE` and the active context's `SV_STATE` show in the live bits of `STATUS` (R25). -/
def WriteShows (s : State) (n m : CsrNumber) : Prop :=
  (n = 0x068 ∧ m = 0x06B) ∨ (n = 0x06C ∧ m = csrBufData) ∨ (n = csrBufData ∧ m = 0x06C)
    ∨ (m = 0x001 ∧ (n = 0x0F0 ∨ n = BitVec.ofNat 12 (0x118 + 0x40 * s.svActive.val)))

/-- The host's next transaction is `t`, and then come `rest`. -/
def Next (s : State) (t : Txn) (rest : List Txn) : Prop := s.inputs.pending = t :: rest

/-! Errors, events and calls of each command (R350, R361, R289 and R331). -/

/-- The codes a command that is a legal word can end with (R350). -/
def errorsOf : Instr → List Nat
  | .nop | .sysReset | .tiMov .. | .tiHalf .. | .tiToNs .. | .tiCmp .. | .tsMov .. | .fltReset .. | .svReset .. | .svStat ..
  | .ccFreq .. | .ccDelta .. | .ccPhase .. | .ccGetTime .. => []
  | .tiAdd .. | .tiSub .. | .tiNeg .. | .tiAbs .. | .tiFromNs .. | .tiMulI .. => [2]
  | .tiDivI .. => [3]
  | .tsSub .. | .tsAddI .. | .tsDiffC .. => [2, 4]
  | .fltStep .. => [2, 9]
  | .svDelay .. => [2, 4, 8, 9, 10]
  | .svOffset .. => [2, 4, 8, 9, 10]
  | .svPid .. => [2, 4, 9, 10]
  | .svSwitch => [2, 9]
  | .svLost .. => [2, 9, 10]
  | .pkHdr | .upHdr | .upTs .. | .upPd .. | .upAnn .. | .upSig .. | .pkTlv => [5]
  | .pkTs .. | .pkPd .. => [4, 5, 7]
  | .pkAnn .. => [2, 4, 5]
  | .pkSig .. => [5, 7]
  | .upTlv => [5, 6]
  | .ccSetTime .. => [4]
  | .tmInit .. | .tmStop .. => [9]
  | .tmStart .. => [2, 4, 9]
  | .tmTick .. => [2, 4, 9]

/-- The event bits a command can set (R361). -/
def eventsOf : Instr → BitVec 12
  | .tmTick .. => 0x1FF
  | .svOffset .. => 0x700
  | .svPid .. => 0x500
  | .svReset .. | .svSwitch => 0x100
  | .svLost .. => 0x900
  | .nop | .sysReset | .tiMov .. | .tiAdd .. | .tiSub .. | .tiNeg .. | .tiAbs .. | .tiHalf .. | .tiFromNs .. | .tiToNs .. | .tiCmp ..
  | .tiMulI .. | .tiDivI .. | .tsMov .. | .tsSub .. | .tsAddI .. | .tsDiffC .. | .fltReset .. | .fltStep .. | .svDelay .. | .svStat ..
  | .pkHdr | .upHdr | .pkTs .. | .upTs .. | .pkPd .. | .upPd .. | .pkAnn .. | .upAnn .. | .pkSig .. | .upSig .. | .pkTlv | .upTlv
  | .ccFreq .. | .ccSetTime .. | .ccDelta .. | .ccPhase .. | .ccGetTime .. | .tmInit .. | .tmStart .. | .tmStop .. => 0

/-- The number of a call (R321). -/
def callOp : Call → Nat
  | .setFrequencyRatio .. => 1
  | .setTime .. => 2
  | .setTimeDelta .. => 3
  | .adjustPhase .. => 4
  | .getTime .. => 5

/-- The sequences of calls, by their numbers, a command can make (R289, R322 to R326, R331). -/
def callsOf : Instr → List (List Nat)
  | .svOffset .. => [[], [3], [2], [1], [1, 4]]
  | .svPid .. => [[], [1], [1, 4]]
  | .svLost .. => [[], [1]]
  | .ccFreq .. => [[1]]
  | .ccSetTime .. => [[], [2]]
  | .ccDelta .. => [[3]]
  | .ccPhase .. => [[4]]
  | .ccGetTime .. => [[5]]
  | .nop | .sysReset | .tiMov .. | .tiAdd .. | .tiSub .. | .tiNeg .. | .tiAbs .. | .tiHalf .. | .tiFromNs .. | .tiToNs .. | .tiCmp ..
  | .tiMulI .. | .tiDivI .. | .tsMov .. | .tsSub .. | .tsAddI .. | .tsDiffC .. | .fltReset .. | .fltStep .. | .svReset .. | .svDelay ..
  | .svSwitch | .svStat .. | .pkHdr | .upHdr | .pkTs .. | .upTs .. | .pkPd .. | .upPd .. | .pkAnn .. | .upAnn .. | .pkSig .. | .upSig ..
  | .pkTlv | .upTlv | .tmInit .. | .tmStart .. | .tmStop .. | .tmTick .. => [[]]

/-- The record shows the call (the table of R321): `op`, `negative`, `domain`, `CC_ARG0`, `CC_ARG1`. -/
def Shows (r : CallRecord) : Call → Prop
  | .setFrequencyRatio ratio d => r.op = 1 ∧ r.negative = false ∧ r.domain = d ∧ r.arg0 = ratio ∧ r.arg1 = 0
  | .setTime t d => r.op = 2 ∧ r.negative = false ∧ r.domain = d
      ∧ r.arg0.toNat = t.secMsb.toNat * 4294967296 + t.sec.toNat ∧ r.arg1.toNat = t.ns.toNat * 4294967296 + t.frac.toNat
  | .setTimeDelta v d n => r.op = 3 ∧ r.negative = n ∧ r.domain = d ∧ r.arg0 = v ∧ r.arg1 = 0
  | .adjustPhase ns d => r.op = 4 ∧ r.negative = false ∧ r.domain = d ∧ r.arg0 = ns ∧ r.arg1 = 0
  | .getTime d => r.op = 5 ∧ r.negative = false ∧ r.domain = d ∧ r.arg0 = 0 ∧ r.arg1 = 0

/-! Filters (R190 to R193). -/

/-- The sum of a windowed filter would not fit (R192). -/
def FilterOverflows (F : Filter) (x : TimeInterval) : Prop :=
  F.windowed = true ∧ F.k ≠ 0 ∧ ¬ Fits (F.sum.toInt + x.toInt)

/-- One sample `x` through a filter `F` leaves the filter `G` and emits `o` (R190, R191, R192). -/
def FilterSteps (F : Filter) (x : TimeInterval) (G : Filter) (o : Option TimeInterval) : Prop :=
  if F.windowed = true then
    ∃ mn mx sm : TimeInterval,
      mn.toInt = (if F.k = 0 then x.toInt else min F.min.toInt x.toInt)
      ∧ mx.toInt = (if F.k = 0 then x.toInt else max F.max.toInt x.toInt)
      ∧ sm.toInt = (if F.k = 0 then x.toInt else F.sum.toInt + x.toInt)
      ∧ if F.period.toNat ≤ F.k.toNat + 1 then
          ∃ y : TimeInterval, y.toInt = (if F.dist = 1 then sm.toInt.tdiv (F.k.toNat + 1) else mn.toInt)
            ∧ G = { F with y := y, k := 0, min := 0, max := 0, sum := 0 } ∧ o = some y
        else G = { F with k := F.k + 1, min := mn, max := mx, sum := sm } ∧ o = none
  else
    ∃ (k : Nat) (y : TimeInterval),
      k = min (if F.k.toNat < F.period.toNat then F.k.toNat + 1 else F.k.toNat) F.period.toNat
      ∧ y.toInt = (((k : Int) - 1) * F.y.toInt + x.toInt).tdiv k
      ∧ G = { F with k := BitVec.ofNat 16 k, y := y } ∧ o = some y

/-- A run of a filter over samples: the filter at the end and what each sample emitted, or the first error. -/
def runFilter (F : Filter) : List TimeInterval → Result (Filter × List (Option TimeInterval))
  | [] => .ok (F, [])
  | x :: xs =>
    match fltStep F x with
    | .error e => .error e
    | .ok (G, o) =>
      match runFilter G xs with
      | .error e => .error e
      | .ok (H, os) => .ok (H, o :: os)

/-- Every sum of the first samples is a signed 64-bit value. -/
def SumsFit (xs : List TimeInterval) : Prop :=
  ∀ k, k ≤ xs.length → Fits ((xs.take k).map fun x => x.toInt).sum

/-! The servo (R261, R262, R269, R283 to R288). -/

/-- `cfg_state` passes (R262). -/
def StateLegal (x : Context) : Prop := x.st.clockState.toNat ≤ 8

/-- `cfg_pid` passes (R262). -/
def PidConfigured (x : Context) : Prop :=
  StateLegal x ∧ ¬ (x.cfg.pEn = true ∧ x.cfg.ap = 0) ∧ ¬ (x.cfg.iEn = true ∧ x.cfg.ai = 0) ∧ ¬ (x.cfg.dEn = true ∧ x.cfg.ad = 0)
    ∧ x.cfg.hoW ≠ 0

/-- `lifetime_check` passes (R269). -/
def LifetimesValid (x : Context) : Prop := 0 < x.cfg.validLft.toInt ∧ x.cfg.prefLft.toInt ≤ x.cfg.validLft.toInt

/-- `mono_check` passes (R269). -/
def Monotonic (x : Context) (t1 t2 : Timestamp) : Prop :=
  x.st.haveSample = true → position x.st.prevT1 < position t1 ∧ position x.st.prevT2 < position t2

/-- The context is in `F_SETTLING` or `P_SETTLING` (R17). -/
def Settling (x : Context) : Prop := x.st.clockState = 2 ∨ x.st.clockState = 6

/-- `m2s` and `s2m` (R265): receive minus send minus correction. -/
def delayOf (send recv : Timestamp) (corr : TimeInterval) : Int := position recv - position send - corr.toInt

/-- The raw offset from master (R270). -/
def rawOffset (x : Context) (m2s : Int) : Int := m2s - (if x.st.haveDelay = true then x.st.mpd.toInt else 0)

/-- The step test (R270, R272). -/
def StepsClock (x : Context) (m2s : Int) : Prop :=
  x.st.forceStep = true ∨ ¬ Fits m2s ∨ ¬ Fits (rawOffset x m2s)
    ∨ (x.st.clockState = 0 ∧ x.cfg.thrInit.toInt ≤ |rawOffset x m2s|)
    ∨ (x.st.clockState ≠ 0 ∧ x.cfg.maxAdj.toInt < |rawOffset x m2s|)

/-- The PID columns of the transition table (R288), by state number. -/
def pidColumn (s0 : Nat) (good : Bool) : Nat :=
  (if good then [1, 3, 2, 4, 5, 7, 6, 7, 7] else [1, 3, 2, 3, 3, 5, 6, 8, 8]).getD s0 s0

/-- The `do_step` column (R276, R288). -/
def stepColumn (s0 : Nat) : Nat := [2, 2, 2, 2, 6, 6, 6, 6, 6].getD s0 6

/-- The settle-timer column (R278, R288). -/
def settleColumn (s0 : Nat) : Nat := if s0 = 2 then 3 else if s0 = 6 then 5 else s0

/-- `dt` of one evaluation (R281 step 1). -/
def evalDt (x : Context) (now : Timestamp) : Int := if x.st.havePrev = true then position now - position x.st.pidT else 0

/-- Whether the I term is used (R283). -/
abbrev UsesIntegral (x : Context) : Prop :=
  x.cfg.iEn = true ∧ (x.st.clockState = 5 ∨ x.st.clockState = 7 ∨ x.st.clockState = 8)

/-- `prop` (R283). -/
def evalProp (x : Context) (off : Int) : Int := if x.cfg.pEn = true then off.tdiv x.cfg.ap.toNat else 0

/-- `SV_INTEGRAL` after the evaluation (R283). -/
def evalIntegral (x : Context) (off : Int) : Int := if UsesIntegral x then x.st.integral.toInt + off else x.st.integral.toInt

/-- `iterm` (R283). -/
def evalITerm (x : Context) (off : Int) : Int := if UsesIntegral x then (evalIntegral x off).tdiv x.cfg.ai.toNat else 0

/-- `diff` (R283). -/
def evalDiff (x : Context) (off : Int) (now : Timestamp) : Int :=
  if x.cfg.dEn = true ∧ x.st.havePrev = true then
    ((off - x.st.prevOffset.toInt) * 65536000000000).tdiv (evalDt x now * x.cfg.ad.toNat)
  else 0

/-- `adj` (R283). -/
def evalAdj (x : Context) (off : Int) (now : Timestamp) : Int :=
  x.cfg.gain.toNat * (evalProp x off + evalITerm x off + evalDiff x off now)

/-- A signed number of 2^-16 ns per second as parts per trillion, negated: what the oscillator is told (R284). The division is the
floor. -/
def ratioOf (adj : Int) : Int := -(adj * 1000 / 65536)

/-- Time has advanced since the previous evaluation (R281 step 1). -/
def TimeAdvances (x : Context) (now : Timestamp) : Prop := x.st.havePrev = true → position x.st.pidT < position now

/-- Every `chk` of one evaluation passes (R281, R283, R284). -/
def EvalFits (x : Context) (off : Int) (now : Timestamp) : Prop :=
  Fits (evalDt x now) ∧ Fits (evalIntegral x off) ∧ Fits (evalDiff x off now) ∧ Fits (evalAdj x off now)
    ∧ Fits (ratioOf (evalAdj x off now))

/-- Whether the frequency ratio is applied directly (R284). -/
abbrev Direct (x : Context) (off : Int) : Prop := x.cfg.oscFree = true ∨ x.cfg.synceThr.toInt < |off|

/-- The calls of one evaluation, in order (R284). -/
def evalCalls (x : Context) (off : Int) (now : Timestamp) : List Call :=
  if Direct x off then [.setFrequencyRatio (BitVec.ofInt 64 (ratioOf (evalAdj x off now))) x.cfg.domain]
  else [.setFrequencyRatio 0 x.cfg.domain, .adjustPhase (BitVec.ofInt 64 (off / 65536)) x.cfg.domain]

/-- The offset is in the stability band of the previous one (R286). -/
abbrev InBand (x : Context) (off : Int) : Prop := |off - x.st.prevOffset.toInt| ≤ x.cfg.stableBand.toInt

/-- The decaying average (R285). -/
def newAverage (x : Context) (adj : Int) : Int :=
  ((x.cfg.hoW.toNat - 1) * x.st.adjAvg.toInt + adj).tdiv x.cfg.hoW.toNat

/-- The state registers `y` that one evaluation with offset `off` at time `now` leaves in a context `x` (R281), field by field. -/
structure Evaluates (x : Context) (off : TimeInterval) (now : Timestamp) (y : ServoState) : Prop where
  /-- R281 step 1. -/
  deltaT : y.deltaT.toInt = evalDt x now
  /-- R283. -/
  prop : y.prop.toInt = evalProp x off.toInt
  /-- R283. -/
  integral : y.integral.toInt = evalIntegral x off.toInt
  /-- R283. -/
  diff : y.diff.toInt = evalDiff x off.toInt now
  /-- R283. -/
  adj : y.adj.toInt = evalAdj x off.toInt now
  /-- R284. -/
  ratio : y.ratio.toInt = if Direct x off.toInt then ratioOf (evalAdj x off.toInt now) else 0
  /-- R286, the in-band counter. -/
  stableCnt : y.stableCnt.toNat =
    if x.st.havePrev = false then x.st.stableCnt.toNat
    else if InBand x off.toInt then min (x.st.stableCnt.toNat + 1) 65535 else 0
  /-- R286, the out-of-band counter. -/
  unstableCnt : y.unstableCnt.toNat =
    if x.st.havePrev = false then x.st.unstableCnt.toNat
    else if InBand x off.toInt then 0 else min (x.st.unstableCnt.toNat + 1) 65535
  /-- R286, the flag. -/
  stableOffset : y.stableOffset =
    if x.st.havePrev = false then x.st.stableOffset
    else if InBand x off.toInt then (if x.cfg.stableN.toNat ≤ y.stableCnt.toNat then true else x.st.stableOffset)
    else (if x.cfg.unstableM.toNat ≤ y.unstableCnt.toNat then false else x.st.stableOffset)
  /-- R287. -/
  offsetOk : y.offsetOk =
    if |off.toInt| ≤ x.cfg.okThr.toInt then true
    else if x.cfg.failThr.toInt < |off.toInt| then false
    else x.st.offsetOk
  /-- R285, the average. -/
  adjAvg : y.adjAvg.toInt = if x.st.clockState = 7 then newAverage x (evalAdj x off.toInt now) else x.st.adjAvg.toInt
  /-- R285, the count. -/
  hoCnt : y.hoCnt.toNat =
    if x.st.clockState = 7 then
      (if |newAverage x (evalAdj x off.toInt now) - x.st.adjAvg.toInt| ≤ x.cfg.hoBand.toInt then min (x.st.hoCnt.toNat + 1) 65535 else 0)
    else x.st.hoCnt.toNat
  /-- R285, the flag. -/
  holdoverOk : y.holdoverOk = if x.st.clockState = 7 then decide (x.cfg.hoCount.toNat ≤ y.hoCnt.toNat) else x.st.holdoverOk
  /-- R288. -/
  clockState : y.clockState.toNat = pidColumn x.st.clockState.toNat (y.stableOffset && y.offsetOk)
  /-- R281 step 8. -/
  previous : y.prevOffset = off ∧ y.pidT = now ∧ y.havePrev = true
  /-- The other registers stay. -/
  kept : y.forceStep = x.st.forceStep ∧ y.haveDelay = x.st.haveDelay ∧ y.haveSample = x.st.haveSample ∧ y.m2s = x.st.m2s
    ∧ y.s2m = x.st.s2m ∧ y.mpd = x.st.mpd ∧ y.offset = x.st.offset ∧ y.prevT1 = x.st.prevT1 ∧ y.prevT2 = x.st.prevT2

/-- The events of one evaluation: `HOLDOVER_RDY` when `holdover_ok` rises (R285), `STATE_CHG` when the state number changes (R288). -/
def evalEvents (old new : ServoState) : BitVec 12 :=
  (if old.holdoverOk = false ∧ new.holdoverOk = true then 0x400 else 0) ||| (if old.clockState = new.clockState then 0 else 0x100)

/-- The state after servo registers `y`, calls and events are committed in context `c` and mirrored to the other one (R281, R291). -/
def committed (c : CtxId) (y : ServoState) (calls : List Call) (events : BitVec 12) (s : State) : State :=
  mirror c (event events (setSt c y (emitAll calls s)))

/-- `flt_reset` of both filters of a context (R193): the configuration stays. -/
def emptied (x : Context) : Vector Filter 2 :=
  x.flt.map fun f => { f with y := 0, k := 0, min := 0, max := 0, sum := 0 }

/-- The shadow set of R291. -/
structure ShadowSet where
  prop       : TimeInterval
  integral   : TimeInterval
  diff       : TimeInterval
  prevOffset : TimeInterval
  deltaT     : TimeInterval
  adjAvg     : TimeInterval
  hoCnt      : BitVec 16
  holdoverOk : Bool
  havePrev   : Bool
  pidT       : Timestamp
  adj        : TimeInterval
  ratio      : Reg
  deriving DecidableEq, Repr

/-- The shadow set in the state registers of a context. -/
def shadowOf (st : ServoState) : ShadowSet where
  prop := st.prop
  integral := st.integral
  diff := st.diff
  prevOffset := st.prevOffset
  deltaT := st.deltaT
  adjAvg := st.adjAvg
  hoCnt := st.hoCnt
  holdoverOk := st.holdoverOk
  havePrev := st.havePrev
  pidT := st.pidT
  adj := st.adj
  ratio := st.ratio

/-- The inactive context's shadow set equals the active one's (R291). -/
def ShadowAgrees (s : State) : Prop := shadowOf s.sv[(0 : CtxId)].st = shadowOf s.sv[(1 : CtxId)].st

/-- Both clock states are states of R37, not reserved numbers. -/
def ClocksLegal (s : State) : Prop := ∀ c : CtxId, StateLegal s.sv[c]

/-! Timers (R171, R178). -/

/-- `r` is the smallest multiple of `TICK_US` that is at least `v` (R171). -/
def RoundedUp (s : State) (v r : Nat) : Prop :=
  (∃ k, r = k * tickUs s) ∧ v ≤ r ∧ ∀ k, v ≤ k * tickUs s → r ≤ k * tickUs s

/-- The timer takes part in the tick and is due (R178). -/
abbrev Due (t : Timer) (now : Nat) : Prop := t.armed = true ∧ t.stopPending = false ∧ t.deadlineUs.toNat ≤ now

/-- The timer is dropped by the tick: its lazy removal (R176, R178). -/
abbrev Dropped (t : Timer) : Prop := t.armed = true ∧ t.stopPending = true

/-- The first deadline after `now` on the timer's period grid fits its register (R178). -/
def AdvanceFits (t : Timer) (now : Nat) : Prop :=
  ∀ n, t.deadlineUs.toNat + n * t.periodUs.toNat ≤ now → t.deadlineUs.toNat + (n + 1) * t.periodUs.toNat < 18446744073709551616

/-- What a tick makes of a due timer's record (R178, R179): it fires once, a one-shot timer is removed, a periodic one is moved by
`n` whole periods to its first deadline after `now` and `n - 1` of them are counted as lost. -/
def FiresTo (t u : Timer) (now : Nat) : Prop :=
  if t.periodic = true then
    ∃ n, 1 ≤ n ∧ t.deadlineUs.toNat + (n - 1) * t.periodUs.toNat ≤ now ∧ now < t.deadlineUs.toNat + n * t.periodUs.toNat
      ∧ u = { t with deadlineUs := BitVec.ofNat 64 (t.deadlineUs.toNat + n * t.periodUs.toNat), fireCnt := t.fireCnt + 1,
                     lossCnt := t.lossCnt + BitVec.ofNat 32 (n - 1) }
  else u = { t with armed := false, fireCnt := t.fireCnt + 1 }

/-- The clock state of context `c` after a tick (R181, R278). -/
def tickedClock (s : State) (now : Nat) (c : CtxId) : BitVec 4 :=
  if Due s.tm[settleTimer c] now then BitVec.ofNat 4 (settleColumn s.sv[c].st.clockState.toNat) else s.sv[c].st.clockState

/-- The event bits of a tick (R181, R361): bit `i` for each timer that fires, and `STATE_CHG` when a settle action changed a state. -/
def tickEvents (s : State) (now : Nat) : BitVec 12 :=
  BitVec.ofNat 12 ((List.range 8).foldl (fun a i => a + if Due s.tm[Fin.ofNat 8 i] now then 2 ^ i else 0) 0)
    ||| (if tickedClock s now 0 = s.sv[(0 : CtxId)].st.clockState ∧ tickedClock s now 1 = s.sv[(1 : CtxId)].st.clockState then 0
         else 0x100)

end Sys2Proof.Machine
end

