-- ==== Sys2Proof/Certificates/Slice0/Obligations.lean ====
section
/-! DEFINITION. The statements for the provers. Each docstring names the rules of spec/ it formalises, or says which choice of the
model it rests on. -/

section

open Sys2Proof Sys2Proof.Machine

/-! Encoding (spec/30_encoding.md). -/

/-- Words written out from the examples of the rules decode to the commands they stand for (R105, R131, R139, R140, R148, R196, R264,
R266, R224, R322, R326, R172, R174, R178, R341), and a word with a stray bit, an operand above its range or a reserved opcode does not
decode (R103). -/
def Obligations.DecodeSampleWords : Prop :=
  decode 0x02201000 = some (.tiAdd 2 0 1) ∧ decode 0x01010000 = some (.tiMov 0 1) ∧ decode 0x09001000 = some (.tiCmp 0 1)
    ∧ decode 0x0A010003 = some (.tiMulI 0 1 3) ∧ decode 0x13010003 = some (.tsDiffC 0 1 0 3)
    ∧ decode 0x21010001 = some (.fltStep 0 1 0 1) ∧ decode 0x30100000 = some (.svReset 1)
    ∧ decode 0x31023002 = some (.svDelay 0 2 3 2) ∧ decode 0x44001000 = some (.pkPd 0 1)
    ∧ decode 0x50010003 = some (.ccFreq 1 3) ∧ decode 0x54300002 = some (.ccGetTime 3 2)
    ∧ decode 0x60200005 = some (.tmInit 2 5) ∧ decode 0x61201000 = some (.tmStart 2 0 true)
    ∧ decode 0x63010000 = some (.tmTick 1) ∧ decode 0x7F000000 = some .sysReset
    ∧ decode 0x00000001 = none ∧ decode 0x10400000 = none ∧ decode 0x0C000000 = none

/-- Every command decodes from its own word: no bit of an encoding is dropped (R100 to R105). -/
def Obligations.DecodeOfEncode : Prop :=
  ∀ i : Instr, decode (encode i) = some i

/-- No two words are one command: a word that decodes is the encoding of what it decodes to (R103 "no encodings that execute as another
command", R106). -/
def Obligations.EncodeOfDecode : Prop :=
  ∀ (w : CommandWord) (i : Instr), decode w = some i → encode i = w

/-- R105: a word is legal exactly when `w & mask = match` for a row of the opcode map, and no opcode has two rows. With the rule's
example, the mask and the match of `TI.ADD`. -/
def Obligations.LegalExactlyByMask : Prop :=
  (∀ w : CommandWord, (decode w).isSome = true ↔ ∃ r ∈ opTable, w &&& r.mask = r.pattern)
    ∧ (opTable.map fun r => r.op).Nodup
    ∧ (∃ r ∈ opTable, r.op = 0x02 ∧ r.mask = 0xFF888FFF ∧ r.pattern = 0x02000000)
    ∧ decode 0x02201000 = some (.tiAdd 2 0 1)

/-- R103: a word with an opcode that is not in the table, a 1 outside the used fields or an operand above its range ends with
`E_ILLEGAL`, which changes `STATUS` and `CMDCNT` (and the word is kept in `CMD`, R26); every other word is a command; and the reserved
opcodes the rule lists are illegal. -/
def Obligations.IllegalWordEffect : Prop :=
  (∀ (s : State) (v : Reg) (rest : List Txn), Next s (.wr csrCmd v) rest → wellFormedWord (v.setWidth 32) = false →
    step s = .next { s with
      cmd := v.setWidth 32, cmdCnt := s.cmdCnt + 1, status := ⟨false, false, s.status.lt, s.status.eq, 1⟩, result := none,
      inputs := { s.inputs with pending := rest } })
    ∧ (∀ w : CommandWord, wellFormedWord w = true ↔ ∃ i, decode w = some i)
    ∧ (∀ p ∈ reservedOpcodes, ∀ op a b c imm : Nat, p.1 ≤ op → op ≤ p.2 → a < 16 → b < 16 → c < 16 → imm < 4096 →
        wellFormedWord (commandWord op a b c imm) = false)

/-! The host's transactions (spec/46_system.md R342). -/

/-- When the host's next transaction writes `CMD` with a word that decodes, the step runs that command on the state without the
transaction, and then `CMD` holds the word (R24, R26, R342). That a transaction is taken from a queue is the model's form (assumption
log 4). -/
def Obligations.StepRunsDecodedInstruction : Prop :=
  ∀ (s : State) (v : Reg) (rest : List Txn) (i : Instr), Next s (.wr csrCmd v) rest → decode (v.setWidth 32) = some i →
    ∃ t, exec i { s with inputs := { s.inputs with pending := rest } } = .next t
      ∧ step s = .next { t with cmd := v.setWidth 32, result := none }

/-- A read answers the CSR's value (`CsrFieldsRead` says which) and changes nothing, except that a read of `BUF_DATA` answers the byte at `BUF_ADDR`, zero beyond
`BUF`, and advances `BUF_ADDR`; a write of `BUF_DATA` stores one byte, none beyond `BUF`, and advances `BUF_ADDR` (R34, R342, R373). -/
def Obligations.CsrReadAndByteAccess : Prop :=
  ∀ (s : State) (n : CsrNumber) (v : Reg) (rest : List Txn),
    (Next s (.rd n) rest → n ≠ csrBufData →
      step s = .next { s with result := some (csrValue s n), inputs := { s.inputs with pending := rest } })
    ∧ (Next s (.rd csrBufData) rest →
      step s = .next { s with
        result := some (if s.win.addr.toNat < 2048 then (readByte s.buf s.win.addr.toNat).setWidth 64 else 0)
        win := { s.win with addr := s.win.addr + 1 }, inputs := { s.inputs with pending := rest } })
    ∧ (Next s (.wr csrBufData v) rest →
      ∃ m, step s = .next { s with
          result := none, buf := m, win := { s.win with addr := s.win.addr + 1 }, inputs := { s.inputs with pending := rest } }
        ∧ ∀ x, readByte m x = if x = s.win.addr.toNat ∧ x < 2048 then v.setWidth 8 else readByte s.buf x)

/-- What a read of each CSR number shows (R21 to R40, R44): every field of the tables shows its register, `STATUS` with its live view of
the active context among them, and every bit of every number that belongs to no field reads zero (R29). -/
def Obligations.CsrFieldsRead : Prop :=
  ∀ s : State,
    (∀ r ∈ csrFields s, (csrValue s (BitVec.ofNat 12 r.num)).toNat / 2 ^ r.lo % 2 ^ r.width = r.value)
    ∧ ∀ (n : CsrNumber) (k : Nat), (∀ r ∈ csrFields s, r.num = n.toNat → k < r.lo ∨ r.lo + r.width ≤ k) →
        (csrValue s n).getLsbD k = false

/-- A write of a plain read-write CSR is read back in its defined bits; a write of a read-only or an unlisted number changes nothing;
an unlisted number reads zero; a write of `BUF_BASE` forgets the packed header; no write but that of `CMD` touches `STATUS` or `CMDCNT`.
A write leaves what every other number reads, but for the side effects named in `WriteShows`, and leaves the trace; only a write of
`BUF_DATA` changes `BUF` (R29, R34, R44, R90). -/
def Obligations.CsrWriteReadBack : Prop :=
  (∀ (n : CsrNumber) (v : Reg) (s : State), csrPlain n.toNat = true → csrValue (csrWrite n v s) n = v &&& csrMask n.toNat)
    ∧ (∀ (n : CsrNumber) (v : Reg) (s : State), csrListed n.toNat = false ∨ csrReadOnly n.toNat = true → csrWrite n v s = s)
    ∧ (∀ (n : CsrNumber) (s : State), csrListed n.toNat = false → csrValue s n = 0)
    ∧ (∀ (v : Reg) (s : State), (csrWrite 0x068 v s).win.hdrPacked = false)
    ∧ (∀ (n : CsrNumber) (v : Reg) (s : State), (csrWrite n v s).status = s.status ∧ (csrWrite n v s).cmdCnt = s.cmdCnt)
    ∧ (∀ (n m : CsrNumber) (v : Reg) (s : State), m ≠ n → ¬ WriteShows s n m → csrValue (csrWrite n v s) m = csrValue s m)
    ∧ (∀ (n : CsrNumber) (v : Reg) (s : State), (csrWrite n v s).trace = s.trace ∧ (csrWrite n v s).inputs = s.inputs
        ∧ (n ≠ csrBufData → (csrWrite n v s).buf = s.buf))
    ∧ (∀ (n : CsrNumber) (v : Reg) (s : State) (rest : List Txn), Next s (.wr n v) rest → n ≠ csrCmd →
        step s = .next { csrWrite n v s with result := none, inputs := { s.inputs with pending := rest } })

/-- Writing 1 clears an event bit and writing 0 leaves it (R28); `irq` is high exactly when an event bit is set and unmasked, so it
stays 0 while `EVT_MASK` is 0 (R360). -/
def Obligations.EventsClearAndIrq : Prop :=
  (∀ (s : State) (v : Reg) (rest : List Txn), Next s (.wr 0x002 v) rest →
    ∃ e, step s = .next { s with evt := e, result := none, inputs := { s.inputs with pending := rest } }
      ∧ ∀ b, b < 12 → e.getLsbD b = (s.evt.getLsbD b && !v.getLsbD b))
    ∧ (∀ s : State, irq s = true ↔ ∃ b, b < 12 ∧ s.evt.getLsbD b = true ∧ s.evtMask.getLsbD b = true)
    ∧ (∀ s : State, s.evtMask = 0 → irq s = false)

/-- R43: the `reset` transaction, and the state right after reset, read the reset value of every CSR (`BUF_DATA` reads an unspecified
byte, of which nothing is said), with `irq` low; `SYS.RESET` leaves `BUF` unchanged. -/
def Obligations.ResetValues : Prop :=
  (∀ n : CsrNumber, n ≠ csrBufData → csrValue State.reset n = csrResetValue n.toNat)
    ∧ irq State.reset = false
    ∧ (∀ (s : State) (rest : List Txn), Next s .reset rest →
        ∃ t, step s = .next t ∧ (∀ n : CsrNumber, n ≠ csrBufData → csrValue t n = csrResetValue n.toNat) ∧ irq t = false)
    ∧ (∀ s t : State, Answers .sysReset s t → t.buf = s.buf)

/-- `NOP` only counts (R340). `SYS.RESET` puts every CSR at its reset value, except that `CMDCNT` is 1 and `STATUS` shows its success,
and, as a transaction, that `CMD` holds its word; `BUF` and the clock-control trace stay, no call is made (R341). That `LT` and `EQ`
go to 0 with the rest of `STATUS` is the model's choice between R341 and R25 (assumption log 17). -/
def Obligations.SystemCommands : Prop :=
  (∀ s : State, decode 0x00000000 = some .nop ∧ Completes .nop false s s)
    ∧ (∀ s : State, decode 0x7F000000 = some .sysReset
        ∧ exec .sysReset s = .next { State.reset with
            cmdCnt := 1, status := ⟨true, false, false, false, 0⟩, buf := s.buf, trace := s.trace, result := s.result,
            inputs := s.inputs })
    ∧ (∀ (s : State) (rest : List Txn), Next s (.wr csrCmd 0x7F000000) rest →
        step s = .next { State.reset with
          cmd := 0x7F000000, cmdCnt := 1, status := ⟨true, false, false, false, 0⟩, buf := s.buf, trace := s.trace, result := none,
          inputs := { s.inputs with pending := rest } })
    ∧ (∀ op : CommandWord, op ≠ 0 → op.toNat < 16777216 → decode op = none)
    ∧ (∀ op : CommandWord, op ≠ 0x7F000000 → op.toNat / 16777216 = 0x7F → decode op = none)

/-- R354: the engine accepts every transaction in every state, one after the other; nothing it does stops it. -/
def Obligations.NeverFatal : Prop :=
  (∀ s : State, ∃ t, step s = .next t ∧ t.inputs.pending = s.inputs.pending.tail)
    ∧ ∀ (k : Nat) (s : State), ∃ t, Host.Core.run core k s = .next t

/-! What every command does to `STATUS`, the events and the calls. -/

/-- R352: a write of `CMD` whose command raises changes `CMDCNT`, `CMD` and `STATUS`, as the rule says, and nothing else (the
transaction itself is used up and answers nothing). -/
def Obligations.FailureChangesNothing : Prop :=
  ∀ (s : State) (v : Reg) (rest : List Txn) (t : State), Next s (.wr csrCmd v) rest → step s = .next t → t.status.ok = false →
    1 ≤ t.status.err.toNat ∧ t.status.err.toNat ≤ 10
      ∧ t = { s with
          cmd := v.setWidth 32, cmdCnt := s.cmdCnt + 1, status := ⟨false, false, s.status.lt, s.status.eq, t.status.err⟩,
          result := none, inputs := { s.inputs with pending := rest } }

/-- `CMDCNT` advances by one at every command but `SYS.RESET`; `ERR` is 0 exactly when `OK` is 1; `VALID` is set only by the commands
whose rules set it; `LT` and `EQ` change only in `TI.CMP`; `DOUT0` and `DOUT1` only in `SV.STAT`, `TM.TICK` and `CC.GETTIME` (R24, R25,
R26, R130). -/
def Obligations.StatusAndCounters : Prop :=
  ∀ (i : Instr) (s t : State), Answers i s t →
    (i ≠ .sysReset → t.cmdCnt = s.cmdCnt + 1)
    ∧ (t.status.err = 0 ↔ t.status.ok = true)
    ∧ (t.status.valid = true → t.status.ok = true ∧ ((∃ x y a d, i = .fltStep x y a d) ∨ (∃ x a b c, i = .svDelay x a b c)
        ∨ (∃ x a b c, i = .svOffset x a b c) ∨ (∃ x o n, i = .svPid x o n) ∨ ∃ n, i = .tmTick n))
    ∧ (i ≠ .sysReset → (∀ a b, i ≠ .tiCmp a b) → t.status.lt = s.status.lt ∧ t.status.eq = s.status.eq)
    ∧ (i ≠ .sysReset → (∀ c, i ≠ .svStat c) → (∀ n, i ≠ .tmTick n) → (∀ d m, i ≠ .ccGetTime d m) →
        t.dout0 = s.dout0 ∧ t.dout1 = s.dout1)

/-- A command ends only with the error codes the table of R350 gives it; those with none always complete. -/
def Obligations.ErrorCodes : Prop :=
  ∀ (i : Instr) (s t : State), Answers i s t → t.status.ok = false → t.status.err.toNat ∈ errorsOf i

/-- Event bits are sticky: no command but `SYS.RESET` clears one; and a command sets only the bits the table of R361 gives it
(R361, R362). -/
def Obligations.EventsStickyAndNamed : Prop :=
  ∀ (i : Instr) (s t : State), Answers i s t →
    (i ≠ .sysReset → s.evt &&& ~~~t.evt = 0) ∧ t.evt &&& ~~~s.evt &&& ~~~(eventsOf i) = 0

/-- A command sets `STATE_CHG` exactly when the `clock_state` of some context after it differs from before (R361, its `STATE_CHG` row;
`SYS.RESET` clears all events instead). -/
def Obligations.StateChangeEvent : Prop :=
  ∀ (i : Instr) (s t : State), i ≠ .sysReset → Answers i s t → s.evt.getLsbD 8 = false →
    (t.evt.getLsbD 8 = true ↔ ∃ c : CtxId, t.sv[c].st.clockState ≠ s.sv[c].st.clockState)

/-- R331: only `SV.OFFSET`, `SV.PID`, `SV.LOST` and the `CC.*` commands make clock-control calls; the trace only grows, and by one of
the sequences of calls R289 and the `CC.*` rules give the command. A timer firing makes no call. -/
def Obligations.CallsOfCommands : Prop :=
  ∀ (i : Instr) (s t : State), Answers i s t →
    ∃ cs, t.trace = s.trace ++ cs ∧ cs.map callOp ∈ callsOf i
      ∧ (cs ≠ [] → (∃ x a b c, i = .svOffset x a b c) ∨ (∃ x o n, i = .svPid x o n) ∨ (∃ x, i = .svLost x)
          ∨ (∃ a m, i = .ccFreq a m) ∨ (∃ a m, i = .ccSetTime a m) ∨ (∃ a m, i = .ccDelta a m) ∨ (∃ a m, i = .ccPhase a m)
          ∨ ∃ d m, i = .ccGetTime d m)

/-- R321: every call is counted in `CC_COUNT`, and the record shows the last one made; a set time is a point in time and a delta is at
most 2^63; a command that makes no call leaves the record. (`SYS.RESET` zeroes the record, R341.) -/
def Obligations.CallRecorded : Prop :=
  ∀ (i : Instr) (s t : State), i ≠ .sysReset → Answers i s t →
    ∃ cs, t.trace = s.trace ++ cs ∧ t.cc.count = s.cc.count + BitVec.ofNat 64 cs.length
      ∧ (cs = [] → t.cc = s.cc)
      ∧ (∀ c, cs.getLast? = some c → Shows t.cc c)
      ∧ (∀ x d, Call.setTime x d ∈ cs → WellFormed x)
      ∧ (∀ v d n, Call.setTimeDelta v d n ∈ cs → v.toNat ≤ 9223372036854775808)

/-! The buffer memory (spec/20_memory.md). -/

/-- The buffer keeps its canonical form at every step (the model's form of `BUF`, assumption log 3). -/
def Obligations.CanonicalMemoryKept : Prop :=
  ∀ s t : State, s.buf.wf = true → step s = .next t → t.buf.wf = true

/-- The invariants hold right after reset: the buffer is canonical, the shadow sets agree (R291), both clock states are legal (R43).
The `reset` transaction empties the clock-control trace (R342). That it gives `BUF` a fresh power-on content, a constant without a
value, is the model's form of R43's "unspecified" (assumption log 3). -/
def Obligations.InvariantsAtReset : Prop :=
  State.reset.buf.wf = true ∧ ShadowAgrees State.reset ∧ ClocksLegal State.reset
    ∧ ∀ (s : State) (rest : List Txn), Next s .reset rest →
        ∃ t, step s = .next t ∧ t.trace = [] ∧ t.buf.wf = true ∧ ∀ x, readByte t.buf x = Config.powerOnByte (s.buf.powerOn + 1) x

/-- R77: a command that fails writes nothing to `BUF` and no register; a command that succeeds writes no byte outside the ranges its
rule lists, all of which lie in the window; a command that is no `PK.*` never writes `BUF`. -/
def Obligations.BufferBytesOutside : Prop :=
  ∀ (i : Instr) (s t : State), Answers i s t →
    (t.status.ok = false → t = { s with cmdCnt := t.cmdCnt, status := t.status })
    ∧ (t.status.ok = true → ∀ r ∈ storedRanges i s, InWindow s r.1 r.2)
    ∧ (∀ x, (∀ r ∈ storedRanges i s, x < r.1 ∨ r.1 + r.2 ≤ x) → readByte t.buf x = readByte s.buf x)
    ∧ (storedRanges i s = [] → t.buf = s.buf)

/-- R73: a wide read is made of the bytes, most significant first; a read of `BUF_DATA` returns the one byte; the first wire byte of a
clock identity is in bits 63..56. And what is written is read back (R72). -/
def Obligations.BigEndianAccess : Prop :=
  ∀ (m : Memory) (off n v : Nat),
    memRead m off 1 = (readByte m off).toNat
    ∧ memRead m off 2 = memRead m off 1 * 256 + memRead m (off + 1) 1
    ∧ memRead m off (n + 1) = memRead m off 1 * 256 ^ n + memRead m (off + 1) n
    ∧ (off + n ≤ 2048 → memRead (memWrite off n v m) off n = v % 256 ^ n)
    ∧ (∀ s : State, s.win.addr.toNat < 2048 → csrValue s csrBufData = BitVec.ofNat 64 (memRead s.buf s.win.addr.toNat 1))
    ∧ (∀ p : PortId, off + 10 ≤ 2048 → readByte (putPid off p m) off = p.cid.extractLsb' 56 8)

/-! TimeValue unit (spec/40_timevalue.md). -/

/-- R131, R136, R138: `TI.MOV` copies, `TI.HALF` halves toward zero, `TI.TONS` takes the floor in nanoseconds; they always complete. -/
def Obligations.MoveHalfToNs : Prop :=
  ∀ (d a : TiReg) (s : State),
    decode (commandWord 0x01 d a 0 0) = some (.tiMov d a) ∧ decode (commandWord 0x06 d a 0 0) = some (.tiHalf d a)
    ∧ decode (commandWord 0x08 d a 0 0) = some (.tiToNs d a)
    ∧ Completes (.tiMov d a) false s (setTi d s.ti[a] s)
    ∧ (∃ x : TimeInterval, x.toInt = s.ti[a].toInt.tdiv 2 ∧ Completes (.tiHalf d a) false s (setTi d x s))
    ∧ (∃ x : TimeInterval, x.toInt = s.ti[a].toInt / 65536 ∧ Completes (.tiToNs d a) false s (setTi d x s))

/-- R132 to R135: the sum, the difference, the negative and the absolute value are exact, or the command ends with `E_OVF`; `TI.NEG`
and `TI.ABS` do exactly for `INT64_MIN`. -/
def Obligations.CheckedSums : Prop :=
  ∀ (d a b : TiReg) (s : State),
    decode (commandWord 0x02 d a b 0) = some (.tiAdd d a b) ∧ decode (commandWord 0x03 d a b 0) = some (.tiSub d a b)
    ∧ decode (commandWord 0x04 d a 0 0) = some (.tiNeg d a) ∧ decode (commandWord 0x05 d a 0 0) = some (.tiAbs d a)
    ∧ ChecksInto (.tiAdd d a b) d (s.ti[a].toInt + s.ti[b].toInt) s
    ∧ ChecksInto (.tiSub d a b) d (s.ti[a].toInt - s.ti[b].toInt) s
    ∧ ChecksInto (.tiNeg d a) d (-s.ti[a].toInt) s
    ∧ ChecksInto (.tiAbs d a) d |s.ti[a].toInt| s
    ∧ (Raises (.tiNeg d a) 2 s ↔ s.ti[a].toInt = -9223372036854775808)
    ∧ (Raises (.tiAbs d a) 2 s ↔ s.ti[a].toInt = -9223372036854775808)

/-- R137 and R140: the products by 65536 and by the unsigned immediate are exact, or the command ends with `E_OVF`. -/
def Obligations.CheckedProducts : Prop :=
  ∀ (d a : TiReg) (imm : BitVec 12) (s : State),
    decode (commandWord 0x07 d a 0 0) = some (.tiFromNs d a)
    ∧ decode (commandWord 0x0A d a 0 imm.toNat) = some (.tiMulI d a imm)
    ∧ ChecksInto (.tiFromNs d a) d (s.ti[a].toInt * 65536) s
    ∧ ChecksInto (.tiMulI d a imm) d (s.ti[a].toInt * imm.toNat) s

/-- R141: the quotient by the unsigned immediate, rounded toward zero; `E_DIV` for a zero immediate. -/
def Obligations.DivideByImmediate : Prop :=
  ∀ (d a : TiReg) (imm : BitVec 12) (s : State),
    decode (commandWord 0x0B d a 0 imm.toNat) = some (.tiDivI d a imm)
    ∧ (imm = 0 → Raises (.tiDivI d a imm) 3 s)
    ∧ (imm ≠ 0 → ∃ x : TimeInterval, x.toInt = s.ti[a].toInt.tdiv imm.toNat ∧ Completes (.tiDivI d a imm) false s (setTi d x s))

/-- R139: `TI.CMP` sets `LT` and `EQ` by the signed comparison and changes no register. -/
def Obligations.CompareSetsFlags : Prop :=
  ∀ (a b : TiReg) (s : State),
    decode (commandWord 0x09 0 a b 0) = some (.tiCmp a b)
    ∧ ∃ lt eq : Bool, (lt = true ↔ s.ti[a].toInt < s.ti[b].toInt) ∧ (eq = true ↔ s.ti[a] = s.ti[b])
      ∧ exec (.tiCmp a b) s = .next { s with cmdCnt := s.cmdCnt + 1, status := ⟨true, false, lt, eq, 0⟩ }

/-- R145 and R147: `TS.MOV` copies all four fields unchecked; `TS.ADDI` moves a point in time along the axis, to the one well-formed
Timestamp there, `E_OPERAND` for an ill-formed one and `E_OVF` off the axis. -/
def Obligations.TimestampMoveAndAdd : Prop :=
  ∀ (d a : TsReg) (v : TiReg) (s : State),
    decode (commandWord 0x10 d a 0 0) = some (.tsMov d a) ∧ decode (commandWord 0x12 d a v 0) = some (.tsAddI d a v)
    ∧ Completes (.tsMov d a) false s (setTs d s.ts[a] s)
    ∧ (¬ WellFormed s.ts[a] → Raises (.tsAddI d a v) 4 s)
    ∧ (WellFormed s.ts[a] → OnAxis (position s.ts[a] + s.ti[v].toInt) →
        ∃ t, WellFormed t ∧ position t = position s.ts[a] + s.ti[v].toInt ∧ Completes (.tsAddI d a v) false s (setTs d t s))
    ∧ (WellFormed s.ts[a] → ¬ OnAxis (position s.ts[a] + s.ti[v].toInt) → Raises (.tsAddI d a v) 2 s)

/-- R146 and R148: the difference of two points in time, and the difference corrected by a TimeInterval, are exact, or the command ends
with `E_OPERAND` (an ill-formed Timestamp) or `E_OVF` (either step). -/
def Obligations.TimestampDifferences : Prop :=
  ∀ (d : TiReg) (a b : TsReg) (c : TiReg) (s : State),
    decode (commandWord 0x11 d a b 0) = some (.tsSub d a b) ∧ decode (commandWord 0x13 d a b c) = some (.tsDiffC d a b c)
    ∧ (¬ (WellFormed s.ts[a] ∧ WellFormed s.ts[b]) → Raises (.tsSub d a b) 4 s ∧ Raises (.tsDiffC d a b c) 4 s)
    ∧ (WellFormed s.ts[a] → WellFormed s.ts[b] →
        ChecksInto (.tsSub d a b) d (position s.ts[a] - position s.ts[b]) s
        ∧ (¬ Fits (position s.ts[a] - position s.ts[b]) → Raises (.tsDiffC d a b c) 2 s)
        ∧ (Fits (position s.ts[a] - position s.ts[b]) →
            ChecksInto (.tsDiffC d a b c) d (position s.ts[a] - position s.ts[b] - s.ti[c].toInt) s))

/-! Filter unit (spec/42_filter.md). -/

/-- R193 and R195: `FLT.RESET` drops the accumulated state of one filter and keeps its configuration. -/
def Obligations.FilterReset : Prop :=
  ∀ (c : CtxId) (f : FltId) (s : State),
    decode (commandWord 0x20 c f 0 0) = some (.fltReset c f)
    ∧ Completes (.fltReset c f) false s (setFlt c f { s.sv[c].flt[f] with y := 0, k := 0, min := 0, max := 0, sum := 0 } s)

/-- R190, R191, R192, R196: one sample through one filter, lowpass or windowed; `E_CFG` for a period of 0, `E_OVF` when the window sum
does not fit; the emitted value goes to `ti[D]` with `VALID` 1, without one `ti[D]` stays and `VALID` is 0. -/
def Obligations.FilterStep : Prop :=
  ∀ (c : CtxId) (f : FltId) (a d : TiReg) (s : State),
    decode (commandWord 0x21 c f a d) = some (.fltStep c f a d)
    ∧ (s.sv[c].flt[f].period = 0 → Raises (.fltStep c f a d) 9 s)
    ∧ (s.sv[c].flt[f].period ≠ 0 → FilterOverflows s.sv[c].flt[f] s.ti[a] → Raises (.fltStep c f a d) 2 s)
    ∧ (s.sv[c].flt[f].period ≠ 0 → ¬ FilterOverflows s.sv[c].flt[f] s.ti[a] →
        ∃ (G : Sys2Proof.Machine.Filter) (o : Option TimeInterval), FilterSteps s.sv[c].flt[f] s.ti[a] G o
          ∧ (o = none → Completes (.fltStep c f a d) false s (setFlt c f G s))
          ∧ ∀ y, o = some y → Completes (.fltStep c f a d) true s (setTi d y (setFlt c f G s)))

/-- The lowpass ramp-up of R191: from an empty filter, after `n` samples the divisor is `min(n, period)`, every sample emits, the first
emission is the first sample, and no emission leaves the range of the samples. -/
def Obligations.LowpassRampUp : Prop :=
  ∀ (F : Sys2Proof.Machine.Filter) (xs : List TimeInterval), F.windowed = false → F.period ≠ 0 → F.k = 0 →
    ∃ (G : Sys2Proof.Machine.Filter) (ys : List TimeInterval), runFilter F xs = .ok (G, ys.map some) ∧ ys.length = xs.length ∧ G.k.toNat = min xs.length F.period.toNat
      ∧ ys.head? = xs.head?
      ∧ ∀ lo hi : Int, (∀ x ∈ xs, lo ≤ x.toInt ∧ x.toInt ≤ hi) → ∀ y ∈ ys, lo ≤ y.toInt ∧ y.toInt ≤ hi

/-- The windowed filter of R192 over one whole window: nothing is emitted before the last sample, then the minimum of the samples, or
their mean rounded toward zero when `FL_DIST = 1`, and the accumulators are empty again. -/
def Obligations.WindowEmitsOnce : Prop :=
  ∀ (F : Sys2Proof.Machine.Filter) (xs : List TimeInterval), F.windowed = true → F.period ≠ 0 → F.k = 0 → xs.length = F.period.toNat → SumsFit xs →
    ∃ y : TimeInterval,
      runFilter F xs = .ok ({ F with y := y, k := 0, min := 0, max := 0, sum := 0 },
        List.replicate (xs.length - 1) none ++ [some y])
      ∧ (F.dist = 1 → y.toInt = ((xs.map fun x : TimeInterval => x.toInt).sum).tdiv xs.length)
      ∧ (F.dist ≠ 1 → y ∈ xs ∧ ∀ x ∈ xs, y.toInt ≤ x.toInt)

/-! Codec unit (spec/43_codec.md). -/

/-- R215: `PK.HDR` stores the 34 header bytes and marks the header packed, or ends with `E_BOUNDS`. -/
def Obligations.PackHeader : Prop :=
  ∀ s : State,
    decode 0x40000000 = some .pkHdr
    ∧ (¬ InWindow s s.win.base.toNat 34 → Raises .pkHdr 5 s)
    ∧ (InWindow s s.win.base.toNat 34 →
        ∃ m, StoredAs s.buf m s.win.base.toNat 34 (headerByteAt s.hdr)
          ∧ Completes .pkHdr false s { s with buf := m, win := { s.win with hdrPacked := true } })

/-- R216 and R234: `UP.HDR` and `UP.ANN` load their registers from the message's bytes and change nothing else, or end with
`E_BOUNDS`. -/
def Obligations.UnpackHeaderAndAnnounce : Prop :=
  ∀ (s : State) (d : TsReg), let b := s.win.base.toNat; let rd := memRead s.buf
    decode 0x41000000 = some .upHdr ∧ decode (commandWord 0x47 d 0 0 0) = some (.upAnn d)
    ∧ (¬ InWindow s b 34 → Raises .upHdr 5 s)
    ∧ (InWindow s b 34 → ∃ h : Header, Completes .upHdr false s { s with hdr := h }
        ∧ h.transport.toNat = rd b 1 / 16 ∧ h.msgType.toNat = rd b 1 % 16 ∧ h.minor.toNat = rd (b + 1) 1 / 16
        ∧ h.version.toNat = rd (b + 1) 1 % 16 ∧ h.length.toNat = rd (b + 2) 2 ∧ h.domain.toNat = rd (b + 4) 1
        ∧ h.flags.toNat = rd (b + 6) 2 ∧ h.corr.toNat = rd (b + 8) 8 ∧ h.srcCid.toNat = rd (b + 20) 8
        ∧ h.srcPort.toNat = rd (b + 28) 2 ∧ h.seq.toNat = rd (b + 30) 2 ∧ h.ctrl.toNat = rd (b + 32) 1
        ∧ h.logInt.toNat = rd (b + 33) 1)
    ∧ (¬ InWindow s (b + 34) 30 → Raises (.upAnn d) 5 s)
    ∧ (InWindow s (b + 34) 30 → ∃ (x : Announce) (t : Timestamp), Completes (.upAnn d) false s { setTs d t s with ann := x }
        ∧ t.secMsb.toNat = rd (b + 34) 2 ∧ t.sec.toNat = rd (b + 36) 4 ∧ t.ns.toNat = rd (b + 40) 4 ∧ t.frac = 0
        ∧ x.utc.toNat = rd (b + 44) 2 ∧ x.prio1.toNat = rd (b + 47) 1 ∧ x.cqClass.toNat = rd (b + 48) 1
        ∧ x.cqAccuracy.toNat = rd (b + 49) 1 ∧ x.cqVariance.toNat = rd (b + 50) 2 ∧ x.prio2.toNat = rd (b + 52) 1
        ∧ x.gmId.toNat = rd (b + 53) 8 ∧ x.steps.toNat = rd (b + 61) 2 ∧ x.timeSrc.toNat = rd (b + 63) 1)

/-- R220 and R224: `PK.TS` and `PK.PD` store the body's bytes; `E_SEQ`, `E_BOUNDS`, `E_OPERAND` in that order. -/
def Obligations.PackTimestampAndPdelay : Prop :=
  ∀ (s : State) (a : TsReg) (p : PidReg), let b := s.win.base.toNat
    decode (commandWord 0x42 0 a 0 0) = some (.pkTs a) ∧ decode (commandWord 0x44 0 a p 0) = some (.pkPd a p)
    ∧ (s.win.hdrPacked = false → Raises (.pkTs a) 7 s ∧ Raises (.pkPd a p) 7 s)
    ∧ (s.win.hdrPacked = true → ¬ InWindow s (b + 34) 10 → Raises (.pkTs a) 5 s)
    ∧ (s.win.hdrPacked = true → ¬ InWindow s (b + 34) 20 → Raises (.pkPd a p) 5 s)
    ∧ (s.win.hdrPacked = true → InWindow s (b + 34) 10 → ¬ WellFormed s.ts[a] → Raises (.pkTs a) 4 s)
    ∧ (s.win.hdrPacked = true → InWindow s (b + 34) 20 → ¬ WellFormed s.ts[a] → Raises (.pkPd a p) 4 s)
    ∧ (s.win.hdrPacked = true → InWindow s (b + 34) 10 → WellFormed s.ts[a] →
        ∃ m, StoredAs s.buf m (b + 34) 10 (tsByteAt s.ts[a]) ∧ Completes (.pkTs a) false s { s with buf := m })
    ∧ (s.win.hdrPacked = true → InWindow s (b + 34) 20 → WellFormed s.ts[a] →
        ∃ m, StoredAs s.buf m (b + 34) 20 (fun k => if k < 10 then tsByteAt s.ts[a] k else pidByteAt s.pid[p] (k - 10))
          ∧ Completes (.pkPd a p) false s { s with buf := m })

/-- R221 and R225: `UP.TS` and `UP.PD` load a Timestamp, unchecked and with `frac` 0, and a port identity, or end with `E_BOUNDS`. -/
def Obligations.UnpackTimestampAndPdelay : Prop :=
  ∀ (s : State) (d : TsReg) (p : PidReg), let b := s.win.base.toNat; let rd := memRead s.buf
    decode (commandWord 0x43 d 0 0 0) = some (.upTs d) ∧ decode (commandWord 0x45 d 0 p 0) = some (.upPd d p)
    ∧ (¬ InWindow s (b + 34) 10 → Raises (.upTs d) 5 s) ∧ (¬ InWindow s (b + 34) 20 → Raises (.upPd d p) 5 s)
    ∧ ∃ (t : Timestamp) (q : PortId),
        t.secMsb.toNat = rd (b + 34) 2 ∧ t.sec.toNat = rd (b + 36) 4 ∧ t.ns.toNat = rd (b + 40) 4 ∧ t.frac = 0
        ∧ q.cid.toNat = rd (b + 44) 8 ∧ q.port.toNat = rd (b + 52) 2
        ∧ (InWindow s (b + 34) 10 → Completes (.upTs d) false s (setTs d t s))
        ∧ (InWindow s (b + 34) 20 → Completes (.upPd d p) false s (setPid p q (setTs d t s)))

/-- R230, R231, R232: `PK.ANN` stores the 30 body bytes; as its own grandmaster it transmits the computed offset and persists offset and
flags into `TP`, `HDR_FLAGS` and header byte 7, `E_OVF` when the adjusted offset does not fit; otherwise it transmits `ANN_UTC` and
persists nothing. `E_BOUNDS` comes before `E_OPERAND`. -/
def Obligations.PackAnnounce : Prop :=
  ∀ (s : State) (a : TsReg), let b := s.win.base.toNat
    let sec : Int := s.ts[a].secMsb.toNat * 4294967296 + s.ts[a].sec.toNat
    let utc := (leapRule s.leap sec).1
    let l59 := (leapRule s.leap sec).2.1
    let l61 := (leapRule s.leap sec).2.2
    let flagBits := 2 * l59.toNat + l61.toNat
    decode (commandWord 0x46 0 a 0 0) = some (.pkAnn a)
    ∧ (¬ InWindow s b 64 → Raises (.pkAnn a) 5 s)
    ∧ (InWindow s b 64 → ¬ WellFormed s.ts[a] → Raises (.pkAnn a) 4 s)
    ∧ (InWindow s b 64 → WellFormed s.ts[a] → s.leap.localCid = s.ann.gmId → ¬ FitsUtc utc → Raises (.pkAnn a) 2 s)
    ∧ (InWindow s b 64 → WellFormed s.ts[a] → s.leap.localCid = s.ann.gmId → FitsUtc utc →
        ∃ m, (∀ x, readByte m x =
              if b + 34 ≤ x ∧ x < b + 64 then announceByteAt s.ann s.ts[a] (BitVec.ofInt 16 utc) (x - (b + 34))
              else if x = b + 7 then BitVec.ofNat 8 ((readByte s.buf x).toNat / 4 * 4 + flagBits)
              else readByte s.buf x)
          ∧ Completes (.pkAnn a) false s { s with
              buf := m, tp := ⟨BitVec.ofInt 16 utc, l59, l61⟩
              hdr := { s.hdr with flags := BitVec.ofNat 16 (s.hdr.flags.toNat / 4 * 4 + flagBits) } })
    ∧ (InWindow s b 64 → WellFormed s.ts[a] → s.leap.localCid ≠ s.ann.gmId →
        ∃ m, StoredAs s.buf m (b + 34) 30 (announceByteAt s.ann s.ts[a] s.ann.utc)
          ∧ Completes (.pkAnn a) false s { s with buf := m })

/-- R238 and R239: `PK.SIG` stores and `UP.SIG` loads the target port identity, and both leave the cursor at the first TLV; `E_SEQ`
(pack only) and `E_BOUNDS`. -/
def Obligations.SignallingTarget : Prop :=
  ∀ (s : State) (p : PidReg), let b := s.win.base.toNat
    decode (commandWord 0x48 0 0 p 0) = some (.pkSig p) ∧ decode (commandWord 0x49 0 0 p 0) = some (.upSig p)
    ∧ (s.win.hdrPacked = false → Raises (.pkSig p) 7 s)
    ∧ (s.win.hdrPacked = true → ¬ InWindow s (b + 34) 10 → Raises (.pkSig p) 5 s)
    ∧ (¬ InWindow s (b + 34) 10 → Raises (.upSig p) 5 s)
    ∧ (s.win.hdrPacked = true → InWindow s (b + 34) 10 →
        ∃ m, StoredAs s.buf m (b + 34) 10 (pidByteAt s.pid[p])
          ∧ Completes (.pkSig p) false s { s with buf := m, win := { s.win with ptr := BitVec.ofNat 16 (b + 44) } })
    ∧ (InWindow s (b + 34) 10 →
        ∃ q : PortId, q.cid.toNat = memRead s.buf (b + 34) 8 ∧ q.port.toNat = memRead s.buf (b + 42) 2
          ∧ Completes (.upSig p) false s { setPid p q s with win := { s.win with ptr := BitVec.ofNat 16 (b + 44) } })

/-- R242: `PK.TLV` stores type, length and the value bytes as they were before, at the cursor, and moves the cursor past them, or ends
with `E_BOUNDS`. -/
def Obligations.PackTlv : Prop :=
  ∀ s : State, let p := s.win.ptr.toNat; let len := s.tlv.len.toNat; let v := s.tlv.vptr.toNat
    decode 0x4A000000 = some .pkTlv
    ∧ (¬ InWindow s p (4 + len) ∨ 2048 < v + len → Raises .pkTlv 5 s)
    ∧ (InWindow s p (4 + len) → v + len ≤ 2048 →
        ∃ m, StoredAs s.buf m p (4 + len) (fun k =>
              if k < 2 then beByte 2 s.tlv.type.toNat k
              else if k < 4 then beByte 2 len (k - 2)
              else readByte s.buf (v + (k - 4)))
          ∧ Completes .pkTlv false s { s with buf := m, win := { s.win with ptr := BitVec.ofNat 16 (p + 4 + len) } })

/-- R243: `UP.TLV` loads type, length and the place of the value, and moves the cursor past it; `E_BOUNDS` for the TLV header, `E_TLV`
for a zero type or length, `E_BOUNDS` for the value, in that order. -/
def Obligations.UnpackTlv : Prop :=
  ∀ s : State, let p := s.win.ptr.toNat; let ty := memRead s.buf p 2; let len := memRead s.buf (p + 2) 2
    decode 0x4B000000 = some .upTlv
    ∧ (¬ InWindow s p 4 → Raises .upTlv 5 s)
    ∧ (InWindow s p 4 → ty = 0 ∨ len = 0 → Raises .upTlv 6 s)
    ∧ (InWindow s p 4 → ty ≠ 0 → len ≠ 0 → ¬ InWindow s (p + 4) len → Raises .upTlv 5 s)
    ∧ (InWindow s p 4 → ty ≠ 0 → len ≠ 0 → InWindow s (p + 4) len →
        ∃ x : Tlv, x.type.toNat = ty ∧ x.len.toNat = len ∧ x.vptr.toNat = p + 4
          ∧ Completes .upTlv false s { s with tlv := x, win := { s.win with ptr := BitVec.ofNat 16 (p + 4 + len) } })

/-- R244: `UP.TLV` at the cursor of a successful `PK.TLV` restores type and length and finds the original value bytes. -/
def Obligations.TlvRoundTrip : Prop :=
  ∀ s t : State, s.tlv.type ≠ 0 → s.tlv.len ≠ 0 → Answers .pkTlv s t → t.status.ok = true →
    ∃ u, Answers .upTlv { t with win := { t.win with ptr := s.win.ptr } } u ∧ u.status.ok = true
      ∧ u.tlv.type = s.tlv.type ∧ u.tlv.len = s.tlv.len ∧ u.tlv.vptr.toNat = s.win.ptr.toNat + 4
      ∧ ∀ k, k < s.tlv.len.toNat → readByte u.buf (s.win.ptr.toNat + 4 + k) = readByte s.buf (s.tlv.vptr.toNat + k)

/-- If `PK.ANN` after `PK.HDR` succeeds, then the two succeed in either order, and leave the same bytes, the same header registers and
the same time properties (R214, R232). -/
def Obligations.HeaderAnnounceCommute : Prop :=
  ∀ (a : TsReg) (s t u t' u' : State), Answers .pkHdr s t → Answers (.pkAnn a) t u → Answers (.pkAnn a) s t' → Answers .pkHdr t' u' →
    u.status.ok = true →
    t.status.ok = true ∧ t'.status.ok = true ∧ u'.status.ok = true ∧ (∀ x, readByte u.buf x = readByte u'.buf x) ∧ u.hdr = u'.hdr ∧ u.tp = u'.tp ∧ u.win = u'.win

/-! Servo unit (spec/44_servo.md). -/

/-- R264 and R294: `SV.RESET` zeroes the state registers and both filters of a context, drops its settle timer, sets `STATE_CHG` when it
leaves a state other than `FREERUN`, and mirrors when the context is active; `SV.STAT` reads `SV_STATE` and `SV_OFFSET`. -/
def Obligations.ServoResetAndStatus : Prop :=
  ∀ (c : CtxId) (s : State),
    let dropped : Timer := { s.tm[settleTimer c] with armed := false, stopPending := false }
    let u := event (if s.sv[c].st.clockState = 0 then 0 else 0x100)
      (setTimer (settleTimer c) dropped
        { s with sv := s.sv.set c.val { cfg := s.sv[c].cfg, st := ServoState.zero, flt := emptied s.sv[c] } })
    decode (commandWord 0x30 c 0 0 0) = some (.svReset c) ∧ decode (commandWord 0x36 c 0 0 0) = some (.svStat c)
    ∧ (c = s.svActive → Completes (.svReset c) false s (mirror c u))
    ∧ (c ≠ s.svActive → Completes (.svReset c) false s u)
    ∧ ∃ x : Reg, x.toNat = s.sv[c].st.clockState.toNat + 16 * s.sv[c].st.stableOffset.toNat + 32 * s.sv[c].st.offsetOk.toNat
          + 64 * s.sv[c].st.holdoverOk.toNat + 128 * s.sv[c].st.forceStep.toNat + 256 * s.sv[c].st.havePrev.toNat
          + 512 * s.sv[c].st.haveDelay.toNat + 1024 * s.sv[c].st.haveSample.toNat
        ∧ Completes (.svStat c) false s { s with dout0 := x, dout1 := s.sv[c].st.offset }

/-- R266: `SV.DELAY`. The errors in their order; a huge delay only sets `force_step`; any other goes through the delay filter. -/
def Obligations.DelaySample : Prop :=
  ∀ (c : CtxId) (a b : TsReg) (i : TiReg) (s : State),
    let x := s.sv[c]
    let ins := Instr.svDelay c a b i
    let s2m := delayOf s.ts[a] s.ts[b] s.ti[i]
    let raw := (x.st.m2s.toInt + s2m).tdiv 2
    let sample : TimeInterval := BitVec.ofInt 64 raw
    let operands := WellFormed s.ts[a] ∧ WellFormed s.ts[b]
    let accepted := c = s.svActive ∧ operands ∧ StateLegal x ∧ LifetimesValid x ∧ x.st.haveSample = true
    let huge := ¬ Fits s2m ∨ x.cfg.thrDelay.toInt ≤ |raw|
    decode (commandWord 0x31 c a b i) = some ins
    ∧ (c ≠ s.svActive → Raises ins 10 s)
    ∧ (c = s.svActive → ¬ operands → Raises ins 4 s)
    ∧ (c = s.svActive → operands → ¬ StateLegal x → Raises ins 9 s)
    ∧ (c = s.svActive → operands → StateLegal x → ¬ (LifetimesValid x ∧ x.st.haveSample = true) → Raises ins 8 s)
    ∧ (accepted → huge → Completes ins false s (setSt c { x.st with forceStep := true } s))
    ∧ (accepted → ¬ huge → x.flt[(0 : FltId)].period = 0 → Raises ins 9 s)
    ∧ (accepted → ¬ huge → x.flt[(0 : FltId)].period ≠ 0 → FilterOverflows x.flt[(0 : FltId)] sample → Raises ins 2 s)
    ∧ (accepted → ¬ huge → x.flt[(0 : FltId)].period ≠ 0 → ¬ FilterOverflows x.flt[(0 : FltId)] sample →
        ∃ (G : Sys2Proof.Machine.Filter) (o : Option TimeInterval), FilterSteps x.flt[(0 : FltId)] sample G o
          ∧ (o = none → Completes ins false s (setSt c { x.st with s2m := BitVec.ofInt 64 s2m } (setFlt c 0 G s)))
          ∧ ∀ y, o = some y →
              Completes ins true s (setSt c { x.st with s2m := BitVec.ofInt 64 s2m, mpd := y, haveDelay := true } (setFlt c 0 G s)))

/-- `SV.OFFSET`: the errors its first lines raise, in their order, and its effect while settling, where the sample is recorded and
nothing else happens (R261, R262, R269, R270, R279). -/
def Obligations.OffsetChecksAndSettling : Prop :=
  ∀ (c : CtxId) (a b : TsReg) (i : TiReg) (s : State),
    let x := s.sv[c]
    let ins := Instr.svOffset c a b i
    let m2s := delayOf s.ts[a] s.ts[b] s.ti[i]
    let operands := WellFormed s.ts[a] ∧ WellFormed s.ts[b]
    let usable := LifetimesValid x ∧ Monotonic x s.ts[a] s.ts[b]
    decode (commandWord 0x32 c a b i) = some ins
    ∧ (c ≠ s.svActive → Raises ins 10 s)
    ∧ (c = s.svActive → ¬ operands → Raises ins 4 s)
    ∧ (c = s.svActive → operands → ¬ PidConfigured x → Raises ins 9 s)
    ∧ (c = s.svActive → operands → PidConfigured x → ¬ usable → Raises ins 8 s)
    ∧ (c = s.svActive → operands → PidConfigured x → usable → Settling x → ¬ Fits m2s → Raises ins 8 s)
    ∧ (c = s.svActive → operands → PidConfigured x → usable → Settling x → Fits m2s →
        Completes ins false s
          (setSt c { x.st with m2s := BitVec.ofInt 64 m2s, prevT1 := s.ts[a], prevT2 := s.ts[b], haveSample := true } s))

/-- R276 and R277: the step path of `SV.OFFSET`. One call, a delta-set by the magnitude of the raw offset or, when that does not fit, a
time-of-day set; every state register but `SV_RATIO` cleared; the settling state of the stage; both filters empty; the settle timer
armed once; two events; the mirror. `E_OVF` when the time or the deadline is out of range. -/
def Obligations.OffsetStepsClock : Prop :=
  ∀ (c : CtxId) (a b : TsReg) (i : TiReg) (s : State),
    let x := s.sv[c]
    let ins := Instr.svOffset c a b i
    let m2s := delayOf s.ts[a] s.ts[b] s.ti[i]
    let raw := rawOffset x m2s
    let u := position s.ts[a] + s.ti[i].toInt + (if x.st.haveDelay = true then x.st.mpd.toInt else 0)
    let ticks := x.cfg.settleTicks.toNat
    let cleared : ServoState :=
      { ServoState.zero with ratio := x.st.ratio, clockState := BitVec.ofNat 4 (stepColumn x.st.clockState.toNat) }
    let stepped (call : Call) (r : Nat) : State :=
      mirror c (event 0x300
        (setTimer (settleTimer c) { s.tm[settleTimer c] with
            armed := true, periodic := false, stopPending := false, periodTicks := x.cfg.settleTicks
            periodUs := BitVec.ofNat 64 (ticks * tickUs s), deadlineUs := BitVec.ofNat 64 r }
          { emit call s with sv := s.sv.set c.val { cfg := x.cfg, st := cleared, flt := emptied x } }))
    c = s.svActive → WellFormed s.ts[a] → WellFormed s.ts[b] → PidConfigured x → LifetimesValid x →
    Monotonic x s.ts[a] s.ts[b] → ¬ Settling x → StepsClock x m2s →
      ∃ r, RoundedUp s (s.nowUs.toNat + ticks * tickUs s) r
        ∧ (18446744073709551616 ≤ r → Raises ins 2 s)
        ∧ (¬ Fits raw → ¬ OnAxis u → Raises ins 2 s)
        ∧ (r < 18446744073709551616 → Fits raw →
            Completes ins false s (stepped (.setTimeDelta (BitVec.ofNat 64 raw.natAbs) x.cfg.domain (decide (0 < raw))) r))
        ∧ (r < 18446744073709551616 → ¬ Fits raw → OnAxis u →
            ∃ t, WellFormed t ∧ position t = u ∧ Completes ins false s (stepped (.setTime t x.cfg.domain) r))

/-- `SV.OFFSET` on a sample that neither settles nor steps: it is recorded and filtered, and when the filter emits the controller runs
on the emitted value at the receive time (R270, R271, R281). -/
def Obligations.OffsetTracked : Prop :=
  ∀ (c : CtxId) (a b : TsReg) (i : TiReg) (s : State),
    let x := s.sv[c]
    let ins := Instr.svOffset c a b i
    let m2s := delayOf s.ts[a] s.ts[b] s.ti[i]
    let sample : TimeInterval := BitVec.ofInt 64 (rawOffset x m2s)
    let recorded : ServoState :=
      { x.st with m2s := BitVec.ofInt 64 m2s, prevT1 := s.ts[a], prevT2 := s.ts[b], haveSample := true }
    c = s.svActive → WellFormed s.ts[a] → WellFormed s.ts[b] → PidConfigured x → LifetimesValid x →
    Monotonic x s.ts[a] s.ts[b] → ¬ Settling x → ¬ StepsClock x m2s →
      (x.flt[(1 : FltId)].period = 0 → Raises ins 9 s)
      ∧ (x.flt[(1 : FltId)].period ≠ 0 → FilterOverflows x.flt[(1 : FltId)] sample → Raises ins 2 s)
      ∧ (x.flt[(1 : FltId)].period ≠ 0 → ¬ FilterOverflows x.flt[(1 : FltId)] sample →
          ∃ (G : Sys2Proof.Machine.Filter) (o : Option TimeInterval), FilterSteps x.flt[(1 : FltId)] sample G o
            ∧ (o = none → Completes ins false s (setFlt c 1 G (setSt c recorded s)))
            ∧ ∀ y, o = some y → let e : Context := { x with st := { recorded with offset := y } }
                (¬ TimeAdvances e s.ts[b] → Raises ins 4 s)
                ∧ (TimeAdvances e s.ts[b] → ¬ EvalFits e y.toInt s.ts[b] → Raises ins 2 s)
                ∧ (TimeAdvances e s.ts[b] → EvalFits e y.toInt s.ts[b] →
                    ∃ z, Evaluates e y s.ts[b] z
                      ∧ Completes ins true s
                          (committed c z (evalCalls e y.toInt s.ts[b]) (evalEvents e.st z) (setFlt c 1 G s))))

/-- R280 with the controller's rules R281, R283, R284, R285, R286 and R287: `SV.PID`. The errors in their order, nothing while settling,
and otherwise one evaluation: every register, every call and every event. -/
def Obligations.PidEvaluation : Prop :=
  ∀ (c : CtxId) (o : TiReg) (n : TsReg) (s : State),
    let x := s.sv[c]
    let ins := Instr.svPid c o n
    let e : Context := { x with st := { x.st with offset := s.ti[o] } }
    decode (commandWord 0x33 c o n 0) = some ins
    ∧ (c ≠ s.svActive → Raises ins 10 s)
    ∧ (c = s.svActive → ¬ WellFormed s.ts[n] → Raises ins 4 s)
    ∧ (c = s.svActive → WellFormed s.ts[n] → ¬ PidConfigured x → Raises ins 9 s)
    ∧ (c = s.svActive → WellFormed s.ts[n] → PidConfigured x → Settling x → Completes ins false s s)
    ∧ (c = s.svActive → WellFormed s.ts[n] → PidConfigured x → ¬ Settling x →
        (¬ TimeAdvances e s.ts[n] → Raises ins 4 s)
        ∧ (TimeAdvances e s.ts[n] → ¬ EvalFits e s.ti[o].toInt s.ts[n] → Raises ins 2 s)
        ∧ (TimeAdvances e s.ts[n] → EvalFits e s.ti[o].toInt s.ts[n] →
            ∃ z, Evaluates e s.ti[o] s.ts[n] z
              ∧ Completes ins true s (committed c z (evalCalls e s.ti[o].toInt s.ts[n]) (evalEvents e.st z) s)))

/-- R290: `SV.SWITCH`. The new context continues with the shadow set, the lock state and the stability counters of the old one and an
empty measurement path; the old settle timer is dropped and, while settling, the new one armed; `E_CFG` for a reserved state, `E_OVF`
from the arming. -/
def Obligations.SwitchContext : Prop :=
  ∀ s : State,
    let o := s.svActive
    let n := otherCtx o
    let old := s.sv[o].st
    let ticks := s.sv[n].cfg.settleTicks.toNat
    let y : ServoState := { withShadow old s.sv[n].st with
      clockState := old.clockState, stableOffset := old.stableOffset, offsetOk := old.offsetOk, stableCnt := old.stableCnt
      unstableCnt := old.unstableCnt, forceStep := false, haveDelay := false, haveSample := false, m2s := 0, s2m := 0, mpd := 0
      offset := 0, prevT1 := ⟨0, 0, 0, 0⟩, prevT2 := ⟨0, 0, 0, 0⟩ }
    let moved := setTimer (settleTimer o) { s.tm[settleTimer o] with armed := false, stopPending := false }
      { s with
        sv := (s.sv.set n.val { cfg := s.sv[n].cfg, st := y, flt := emptied s.sv[n] }).set o.val
          { s.sv[o] with st := { old with forceStep := false } }
        svActive := n
        evt := s.evt ||| (if old.clockState = s.sv[n].st.clockState then 0 else 0x100) }
    decode 0x34000000 = some .svSwitch
    ∧ (¬ StateLegal s.sv[o] → Raises .svSwitch 9 s)
    ∧ (StateLegal s.sv[o] → ¬ Settling s.sv[o] → Completes .svSwitch false s moved)
    ∧ (StateLegal s.sv[o] → Settling s.sv[o] →
        ∃ r, RoundedUp s (s.nowUs.toNat + ticks * tickUs s) r
          ∧ (18446744073709551616 ≤ r → Raises .svSwitch 2 s)
          ∧ (r < 18446744073709551616 → Completes .svSwitch false s
              (setTimer (settleTimer n) { s.tm[settleTimer n] with
                armed := true, periodic := false, stopPending := false, periodTicks := s.sv[n].cfg.settleTicks
                periodUs := BitVec.ofNat 64 (ticks * tickUs s), deadlineUs := BitVec.ofNat 64 r } moved)))

/-- R292: `SV.LOST`. With `holdover_ok` the average frequency is re-applied; then the context returns to `FREERUN` with the holdover
bookkeeping intact, empty filters, no settle timer, and the mirror; `E_INACTIVE` comes before `E_CFG`. The `chk` of the rule always
passes: a 64-bit average gives a ratio that fits. -/
def Obligations.MasterLost : Prop :=
  ∀ (c : CtxId) (s : State),
    let x := s.sv[c]
    let ratio := ratioOf x.st.adjAvg.toInt
    let left (r : Reg) : ServoState :=
      { ServoState.zero with adjAvg := x.st.adjAvg, hoCnt := x.st.hoCnt, ratio := r, holdoverOk := x.st.holdoverOk }
    let lost (r : Reg) (ev : BitVec 12) (u : State) : State :=
      mirror c (event (ev ||| (if x.st.clockState = 0 then 0 else 0x100))
        (setTimer (settleTimer c) { s.tm[settleTimer c] with armed := false, stopPending := false }
          { u with sv := s.sv.set c.val { cfg := x.cfg, st := left r, flt := emptied x } }))
    decode (commandWord 0x35 c 0 0 0) = some (.svLost c)
    ∧ (c ≠ s.svActive → Raises (.svLost c) 10 s)
    ∧ (c = s.svActive → ¬ StateLegal x → Raises (.svLost c) 9 s)
    ∧ (c = s.svActive → StateLegal x → x.st.holdoverOk = false → Completes (.svLost c) false s (lost x.st.ratio 0 s))
    ∧ Fits ratio
    ∧ (c = s.svActive → StateLegal x → x.st.holdoverOk = true →
        Completes (.svLost c) false s (lost (BitVec.ofInt 64 ratio) 0x800
          (emit (.setFrequencyRatio (BitVec.ofInt 64 ratio) x.cfg.domain) s)))

/-- R288: the transition table. A command changes the clock state of a context only as a column of the table says (or by the copy of
`SV.SWITCH`, or the reset of `SYS.RESET`), each event of the table leads where its column says, and a change sets `STATE_CHG`. A host
write of `SV_STATE` sets any state directly. -/
def Obligations.ClockTransitions : Prop :=
  (∀ (i : Instr) (s t : State) (c : CtxId), Answers i s t →
    let old := s.sv[c].st.clockState.toNat
    let new := t.sv[c].st.clockState.toNat
    let good := t.sv[c].st.stableOffset && t.sv[c].st.offsetOk
    let ran := t.status.valid = true ∧ ((∃ a b k, i = .svOffset c a b k) ∨ ∃ o n, i = .svPid c o n)
    let stepped := t.status.ok = true ∧ t.status.valid = false ∧ t.trace ≠ s.trace ∧ ∃ a b k, i = .svOffset c a b k
    let settled := t.status.ok = true ∧ ∃ a, i = .tmTick a ∧ Due s.tm[settleTimer c] s.ti[a].toNat
    let dropped := t.status.ok = true ∧ (i = .svReset c ∨ i = .svLost c)
    (ran → new = pidColumn old good ∧ old ≤ 8 ∧ old ≠ 2 ∧ old ≠ 6)
    ∧ (stepped → new = stepColumn old ∧ old ≤ 8 ∧ old ≠ 2 ∧ old ≠ 6)
    ∧ (settled → new = settleColumn old)
    ∧ (dropped → new = 0)
    ∧ (new ≠ old → ran ∨ stepped ∨ settled ∨ dropped ∨ i = .sysReset
        ∨ (i = .svSwitch ∧ c = otherCtx s.svActive ∧ new = s.sv[s.svActive].st.clockState.toNat))
    ∧ (new ≠ old → i ≠ .sysReset → t.evt.getLsbD 8 = true))
  ∧ ∀ (c : CtxId) (v : Reg) (s : State), (csrWrite (BitVec.ofNat 12 (0x118 + 0x40 * c.val)) v s).sv[c].st.clockState = v.setWidth 4

/-- R291's promise, for what the commands do: they keep the inactive context's shadow set equal to the active one's. `SV.RESET` of the
inactive context is left out, because by R264 it zeroes that context and does not mirror (assumption log 9). -/
def Obligations.ShadowAgreementKept : Prop :=
  ∀ (i : Instr) (s t : State), ShadowAgrees s → (∀ c, i = .svReset c → c = s.svActive) → Answers i s t → ShadowAgrees t

/-! Clock-control port (spec/45_clock_control.md). -/

/-- R322 to R325: each `CC.*` command makes its one call; `CC.SETTIME` ends with `E_OPERAND` for an ill-formed Timestamp; `CC.DELTA`
passes the magnitude and the sign apart. -/
def Obligations.ClockControlCalls : Prop :=
  ∀ (a : TiReg) (b : TsReg) (dom : Domain) (s : State),
    decode (commandWord 0x50 0 a 0 dom.toNat) = some (.ccFreq a dom) ∧ decode (commandWord 0x51 0 b 0 dom.toNat) = some (.ccSetTime b dom)
    ∧ decode (commandWord 0x52 0 a 0 dom.toNat) = some (.ccDelta a dom) ∧ decode (commandWord 0x53 0 a 0 dom.toNat) = some (.ccPhase a dom)
    ∧ Completes (.ccFreq a dom) false s (emit (.setFrequencyRatio s.ti[a] dom) s)
    ∧ (WellFormed s.ts[b] → Completes (.ccSetTime b dom) false s (emit (.setTime s.ts[b] dom) s))
    ∧ (¬ WellFormed s.ts[b] → Raises (.ccSetTime b dom) 4 s)
    ∧ Completes (.ccDelta a dom) false s
        (emit (.setTimeDelta (BitVec.ofNat 64 s.ti[a].toInt.natAbs) dom (decide (s.ti[a].toInt < 0))) s)
    ∧ Completes (.ccPhase a dom) false s (emit (.adjustPhase s.ti[a] dom) s)

/-- R326 and R329: `CC.GETTIME` makes its call and writes the port's answer, a well-formed Timestamp and a tick count; the answer is the
next one scheduled, and when none is, a free draw (assumption log 2). -/
def Obligations.GetTimeAnswers : Prop :=
  ∀ (d : TsReg) (dom : Domain) (s : State) (ans : PortAnswer) (left : List PortAnswer),
    let time : Timestamp := ⟨ans.secMsb, ans.sec, BitVec.ofNat 32 ans.ns.val, ans.frac⟩
    let told := setTs d time (emit (.getTime dom) s)
    decode (commandWord 0x54 d 0 0 dom.toNat) = some (.ccGetTime d dom)
    ∧ WellFormed time
    ∧ (s.inputs.answers = ans :: left →
        Completes (.ccGetTime d dom) false s { told with
          cc := { told.cc with tickCnt := ans.tick }, dout0 := ans.tick, inputs := { s.inputs with answers := left } })
    ∧ (s.inputs.answers = [] → ans = Config.portAnswer s.inputs.draws →
        Completes (.ccGetTime d dom) false s { told with
          cc := { told.cc with tickCnt := ans.tick }, dout0 := ans.tick, inputs := { s.inputs with draws := s.inputs.draws + 1 } })

/-! Timer unit (spec/41_timer.md). -/

/-- R172 and R176: `TM.INIT` initialises an unarmed general timer and zeroes its counters; `TM.STOP` marks an armed general timer for
removal at the next tick and does nothing to an unarmed one; `E_CFG` for a settle timer, and for the initialisation of an armed one. -/
def Obligations.TimerInitAndStop : Prop :=
  ∀ (i : TmrId) (inst : BitVec 8) (s : State),
    decode (commandWord 0x60 i 0 0 inst.toNat) = some (.tmInit i inst) ∧ decode (commandWord 0x62 i 0 0 0) = some (.tmStop i)
    ∧ (i.val < 2 → Raises (.tmInit i inst) 9 s ∧ Raises (.tmStop i) 9 s)
    ∧ (2 ≤ i.val → s.tm[i].armed = true → Raises (.tmInit i inst) 9 s
        ∧ Completes (.tmStop i) false s (setTimer i { s.tm[i] with stopPending := true } s))
    ∧ (2 ≤ i.val → s.tm[i].armed = false →
        Completes (.tmInit i inst) false s (setTimer i { s.tm[i] with
          init := true, armed := false, periodic := false, stopPending := false, inst := inst, fireCnt := 0, lossCnt := 0 } s)
        ∧ Completes (.tmStop i) false s s)

/-- R171 and R174: `TM.START` arms an initialised general timer; the deadline is the smallest multiple of `TICK_US` not before
`NOW_US` plus the period; the errors in their order. -/
def Obligations.TimerStart : Prop :=
  ∀ (i : TmrId) (a : TiReg) (rep : Bool) (s : State),
    let ins := Instr.tmStart i a rep
    let ticks := s.ti[a].toNat
    decode (commandWord 0x61 i a rep.toNat 0) = some ins
    ∧ (i.val < 2 → Raises ins 9 s)
    ∧ (2 ≤ i.val → s.tm[i].init = false → Raises ins 9 s)
    ∧ (2 ≤ i.val → s.tm[i].init = true → 4294967296 ≤ ticks → Raises ins 4 s)
    ∧ (2 ≤ i.val → s.tm[i].init = true → rep = true → ticks = 0 → Raises ins 9 s)
    ∧ (2 ≤ i.val → s.tm[i].init = true → ticks < 4294967296 → ¬ (rep = true ∧ ticks = 0) →
        ∃ r, RoundedUp s (s.nowUs.toNat + ticks * tickUs s) r
          ∧ (18446744073709551616 ≤ r → Raises ins 2 s)
          ∧ (r < 18446744073709551616 → Completes ins false s (setTimer i { s.tm[i] with
              armed := true, periodic := rep, stopPending := false, periodTicks := s.ti[a].setWidth 32
              periodUs := BitVec.ofNat 64 (ticks * tickUs s), deadlineUs := BitVec.ofNat 64 r } s)))

/-- R178, R179, R181: `TM.TICK`. Timers being stopped are dropped, due timers fire once, periodic ones move by whole periods and count
the lost ones, settle timers end the settling of their context, `TM_NEXT` and `DOUT0` are the soonest deadline, `VALID` tells whether a
timer fired. Going back in time is `E_OPERAND`; the first due periodic timer with a zero period or a deadline out of range ends the
tick with `E_CFG` or `E_OVF`. -/
def Obligations.TimerTick : Prop :=
  ∀ (a : TiReg) (s : State),
    let ins := Instr.tmTick a
    let now := s.ti[a].toNat
    let noPeriod (i : TmrId) := Due s.tm[i] now ∧ s.tm[i].periodic = true ∧ s.tm[i].periodUs = 0
    let tooFar (i : TmrId) := Due s.tm[i] now ∧ s.tm[i].periodic = true ∧ s.tm[i].periodUs ≠ 0 ∧ ¬ AdvanceFits s.tm[i] now
    let soonest (tm : Vector Timer 8) (next : Reg) :=
      (∀ i : TmrId, tm[i].armed = true → tm[i].stopPending = false → next.toNat ≤ tm[i].deadlineUs.toNat)
      ∧ (next = 0xFFFFFFFFFFFFFFFF
          ∨ ∃ i : TmrId, tm[i].armed = true ∧ tm[i].stopPending = false ∧ next = tm[i].deadlineUs)
    decode (commandWord 0x63 0 a 0 0) = some ins
    ∧ (now < s.nowUs.toNat → Raises ins 4 s)
    ∧ (∀ i : TmrId, s.nowUs.toNat ≤ now → (∀ j : TmrId, j < i → ¬ noPeriod j ∧ ¬ tooFar j) →
        (noPeriod i → Raises ins 9 s) ∧ (tooFar i → Raises ins 2 s))
    ∧ (s.nowUs.toNat ≤ now → (∀ i : TmrId, ¬ noPeriod i ∧ ¬ tooFar i) →
        ∃ (tm : Vector Timer 8) (sv : Vector Context 2) (next : Reg) (fired : Bool),
          (∀ i : TmrId, (Dropped s.tm[i] → tm[i] = { s.tm[i] with armed := false, stopPending := false })
            ∧ (Due s.tm[i] now → FiresTo s.tm[i] tm[i] now)
            ∧ (¬ Dropped s.tm[i] → ¬ Due s.tm[i] now → tm[i] = s.tm[i]))
          ∧ (∀ c : CtxId, sv[c] = { s.sv[c] with st := { s.sv[c].st with clockState := tickedClock s now c } })
          ∧ soonest tm next
          ∧ (fired = true ↔ ∃ i : TmrId, Due s.tm[i] now)
          ∧ Completes ins fired s { s with
              nowUs := s.ti[a], tm := tm, sv := sv, evt := s.evt ||| tickEvents s now, tmNext := next, dout0 := next })

end
end

