-- ==== Sys2Proof/Laws/State.lean ====
section
/-! SUPPORT. One lemma per field per update of the state, so that no proof unfolds a record update. -/

namespace Sys2Proof.Machine

/-! `setTi`. -/

@[simp] theorem setTi_cmd (i : TiReg) (v : TimeInterval) (s : State) :
    (setTi i v s).cmd = s.cmd := rfl
@[simp] theorem setTi_status (i : TiReg) (v : TimeInterval) (s : State) :
    (setTi i v s).status = s.status := rfl
@[simp] theorem setTi_evt (i : TiReg) (v : TimeInterval) (s : State) :
    (setTi i v s).evt = s.evt := rfl
@[simp] theorem setTi_evtMask (i : TiReg) (v : TimeInterval) (s : State) :
    (setTi i v s).evtMask = s.evtMask := rfl
@[simp] theorem setTi_cmdCnt (i : TiReg) (v : TimeInterval) (s : State) :
    (setTi i v s).cmdCnt = s.cmdCnt := rfl
@[simp] theorem setTi_dout0 (i : TiReg) (v : TimeInterval) (s : State) :
    (setTi i v s).dout0 = s.dout0 := rfl
@[simp] theorem setTi_dout1 (i : TiReg) (v : TimeInterval) (s : State) :
    (setTi i v s).dout1 = s.dout1 := rfl
@[simp] theorem setTi_ti (i : TiReg) (v : TimeInterval) (s : State) :
    (setTi i v s).ti = s.ti.set i.val v := rfl
@[simp] theorem setTi_ts (i : TiReg) (v : TimeInterval) (s : State) :
    (setTi i v s).ts = s.ts := rfl
@[simp] theorem setTi_pid (i : TiReg) (v : TimeInterval) (s : State) :
    (setTi i v s).pid = s.pid := rfl
@[simp] theorem setTi_hdr (i : TiReg) (v : TimeInterval) (s : State) :
    (setTi i v s).hdr = s.hdr := rfl
@[simp] theorem setTi_ann (i : TiReg) (v : TimeInterval) (s : State) :
    (setTi i v s).ann = s.ann := rfl
@[simp] theorem setTi_leap (i : TiReg) (v : TimeInterval) (s : State) :
    (setTi i v s).leap = s.leap := rfl
@[simp] theorem setTi_tp (i : TiReg) (v : TimeInterval) (s : State) :
    (setTi i v s).tp = s.tp := rfl
@[simp] theorem setTi_tlv (i : TiReg) (v : TimeInterval) (s : State) :
    (setTi i v s).tlv = s.tlv := rfl
@[simp] theorem setTi_win (i : TiReg) (v : TimeInterval) (s : State) :
    (setTi i v s).win = s.win := rfl
@[simp] theorem setTi_buf (i : TiReg) (v : TimeInterval) (s : State) :
    (setTi i v s).buf = s.buf := rfl
@[simp] theorem setTi_cc (i : TiReg) (v : TimeInterval) (s : State) :
    (setTi i v s).cc = s.cc := rfl
@[simp] theorem setTi_svActive (i : TiReg) (v : TimeInterval) (s : State) :
    (setTi i v s).svActive = s.svActive := rfl
@[simp] theorem setTi_sv (i : TiReg) (v : TimeInterval) (s : State) :
    (setTi i v s).sv = s.sv := rfl
@[simp] theorem setTi_nowUs (i : TiReg) (v : TimeInterval) (s : State) :
    (setTi i v s).nowUs = s.nowUs := rfl
@[simp] theorem setTi_tmNext (i : TiReg) (v : TimeInterval) (s : State) :
    (setTi i v s).tmNext = s.tmNext := rfl
@[simp] theorem setTi_tm (i : TiReg) (v : TimeInterval) (s : State) :
    (setTi i v s).tm = s.tm := rfl
@[simp] theorem setTi_trace (i : TiReg) (v : TimeInterval) (s : State) :
    (setTi i v s).trace = s.trace := rfl
@[simp] theorem setTi_result (i : TiReg) (v : TimeInterval) (s : State) :
    (setTi i v s).result = s.result := rfl
@[simp] theorem setTi_inputs (i : TiReg) (v : TimeInterval) (s : State) :
    (setTi i v s).inputs = s.inputs := rfl

/-! `setTs`. -/

@[simp] theorem setTs_cmd (i : TsReg) (t : Timestamp) (s : State) :
    (setTs i t s).cmd = s.cmd := rfl
@[simp] theorem setTs_status (i : TsReg) (t : Timestamp) (s : State) :
    (setTs i t s).status = s.status := rfl
@[simp] theorem setTs_evt (i : TsReg) (t : Timestamp) (s : State) :
    (setTs i t s).evt = s.evt := rfl
@[simp] theorem setTs_evtMask (i : TsReg) (t : Timestamp) (s : State) :
    (setTs i t s).evtMask = s.evtMask := rfl
@[simp] theorem setTs_cmdCnt (i : TsReg) (t : Timestamp) (s : State) :
    (setTs i t s).cmdCnt = s.cmdCnt := rfl
@[simp] theorem setTs_dout0 (i : TsReg) (t : Timestamp) (s : State) :
    (setTs i t s).dout0 = s.dout0 := rfl
@[simp] theorem setTs_dout1 (i : TsReg) (t : Timestamp) (s : State) :
    (setTs i t s).dout1 = s.dout1 := rfl
@[simp] theorem setTs_ti (i : TsReg) (t : Timestamp) (s : State) :
    (setTs i t s).ti = s.ti := rfl
@[simp] theorem setTs_ts (i : TsReg) (t : Timestamp) (s : State) :
    (setTs i t s).ts = s.ts.set i.val t := rfl
@[simp] theorem setTs_pid (i : TsReg) (t : Timestamp) (s : State) :
    (setTs i t s).pid = s.pid := rfl
@[simp] theorem setTs_hdr (i : TsReg) (t : Timestamp) (s : State) :
    (setTs i t s).hdr = s.hdr := rfl
@[simp] theorem setTs_ann (i : TsReg) (t : Timestamp) (s : State) :
    (setTs i t s).ann = s.ann := rfl
@[simp] theorem setTs_leap (i : TsReg) (t : Timestamp) (s : State) :
    (setTs i t s).leap = s.leap := rfl
@[simp] theorem setTs_tp (i : TsReg) (t : Timestamp) (s : State) :
    (setTs i t s).tp = s.tp := rfl
@[simp] theorem setTs_tlv (i : TsReg) (t : Timestamp) (s : State) :
    (setTs i t s).tlv = s.tlv := rfl
@[simp] theorem setTs_win (i : TsReg) (t : Timestamp) (s : State) :
    (setTs i t s).win = s.win := rfl
@[simp] theorem setTs_buf (i : TsReg) (t : Timestamp) (s : State) :
    (setTs i t s).buf = s.buf := rfl
@[simp] theorem setTs_cc (i : TsReg) (t : Timestamp) (s : State) :
    (setTs i t s).cc = s.cc := rfl
@[simp] theorem setTs_svActive (i : TsReg) (t : Timestamp) (s : State) :
    (setTs i t s).svActive = s.svActive := rfl
@[simp] theorem setTs_sv (i : TsReg) (t : Timestamp) (s : State) :
    (setTs i t s).sv = s.sv := rfl
@[simp] theorem setTs_nowUs (i : TsReg) (t : Timestamp) (s : State) :
    (setTs i t s).nowUs = s.nowUs := rfl
@[simp] theorem setTs_tmNext (i : TsReg) (t : Timestamp) (s : State) :
    (setTs i t s).tmNext = s.tmNext := rfl
@[simp] theorem setTs_tm (i : TsReg) (t : Timestamp) (s : State) :
    (setTs i t s).tm = s.tm := rfl
@[simp] theorem setTs_trace (i : TsReg) (t : Timestamp) (s : State) :
    (setTs i t s).trace = s.trace := rfl
@[simp] theorem setTs_result (i : TsReg) (t : Timestamp) (s : State) :
    (setTs i t s).result = s.result := rfl
@[simp] theorem setTs_inputs (i : TsReg) (t : Timestamp) (s : State) :
    (setTs i t s).inputs = s.inputs := rfl

/-! `setPid`. -/

@[simp] theorem setPid_cmd (i : PidReg) (p : PortId) (s : State) :
    (setPid i p s).cmd = s.cmd := rfl
@[simp] theorem setPid_status (i : PidReg) (p : PortId) (s : State) :
    (setPid i p s).status = s.status := rfl
@[simp] theorem setPid_evt (i : PidReg) (p : PortId) (s : State) :
    (setPid i p s).evt = s.evt := rfl
@[simp] theorem setPid_evtMask (i : PidReg) (p : PortId) (s : State) :
    (setPid i p s).evtMask = s.evtMask := rfl
@[simp] theorem setPid_cmdCnt (i : PidReg) (p : PortId) (s : State) :
    (setPid i p s).cmdCnt = s.cmdCnt := rfl
@[simp] theorem setPid_dout0 (i : PidReg) (p : PortId) (s : State) :
    (setPid i p s).dout0 = s.dout0 := rfl
@[simp] theorem setPid_dout1 (i : PidReg) (p : PortId) (s : State) :
    (setPid i p s).dout1 = s.dout1 := rfl
@[simp] theorem setPid_ti (i : PidReg) (p : PortId) (s : State) :
    (setPid i p s).ti = s.ti := rfl
@[simp] theorem setPid_ts (i : PidReg) (p : PortId) (s : State) :
    (setPid i p s).ts = s.ts := rfl
@[simp] theorem setPid_pid (i : PidReg) (p : PortId) (s : State) :
    (setPid i p s).pid = s.pid.set i.val p := rfl
@[simp] theorem setPid_hdr (i : PidReg) (p : PortId) (s : State) :
    (setPid i p s).hdr = s.hdr := rfl
@[simp] theorem setPid_ann (i : PidReg) (p : PortId) (s : State) :
    (setPid i p s).ann = s.ann := rfl
@[simp] theorem setPid_leap (i : PidReg) (p : PortId) (s : State) :
    (setPid i p s).leap = s.leap := rfl
@[simp] theorem setPid_tp (i : PidReg) (p : PortId) (s : State) :
    (setPid i p s).tp = s.tp := rfl
@[simp] theorem setPid_tlv (i : PidReg) (p : PortId) (s : State) :
    (setPid i p s).tlv = s.tlv := rfl
@[simp] theorem setPid_win (i : PidReg) (p : PortId) (s : State) :
    (setPid i p s).win = s.win := rfl
@[simp] theorem setPid_buf (i : PidReg) (p : PortId) (s : State) :
    (setPid i p s).buf = s.buf := rfl
@[simp] theorem setPid_cc (i : PidReg) (p : PortId) (s : State) :
    (setPid i p s).cc = s.cc := rfl
@[simp] theorem setPid_svActive (i : PidReg) (p : PortId) (s : State) :
    (setPid i p s).svActive = s.svActive := rfl
@[simp] theorem setPid_sv (i : PidReg) (p : PortId) (s : State) :
    (setPid i p s).sv = s.sv := rfl
@[simp] theorem setPid_nowUs (i : PidReg) (p : PortId) (s : State) :
    (setPid i p s).nowUs = s.nowUs := rfl
@[simp] theorem setPid_tmNext (i : PidReg) (p : PortId) (s : State) :
    (setPid i p s).tmNext = s.tmNext := rfl
@[simp] theorem setPid_tm (i : PidReg) (p : PortId) (s : State) :
    (setPid i p s).tm = s.tm := rfl
@[simp] theorem setPid_trace (i : PidReg) (p : PortId) (s : State) :
    (setPid i p s).trace = s.trace := rfl
@[simp] theorem setPid_result (i : PidReg) (p : PortId) (s : State) :
    (setPid i p s).result = s.result := rfl
@[simp] theorem setPid_inputs (i : PidReg) (p : PortId) (s : State) :
    (setPid i p s).inputs = s.inputs := rfl

/-! `setSt`. -/

@[simp] theorem setSt_cmd (c : CtxId) (st : ServoState) (s : State) :
    (setSt c st s).cmd = s.cmd := rfl
@[simp] theorem setSt_status (c : CtxId) (st : ServoState) (s : State) :
    (setSt c st s).status = s.status := rfl
@[simp] theorem setSt_evt (c : CtxId) (st : ServoState) (s : State) :
    (setSt c st s).evt = s.evt := rfl
@[simp] theorem setSt_evtMask (c : CtxId) (st : ServoState) (s : State) :
    (setSt c st s).evtMask = s.evtMask := rfl
@[simp] theorem setSt_cmdCnt (c : CtxId) (st : ServoState) (s : State) :
    (setSt c st s).cmdCnt = s.cmdCnt := rfl
@[simp] theorem setSt_dout0 (c : CtxId) (st : ServoState) (s : State) :
    (setSt c st s).dout0 = s.dout0 := rfl
@[simp] theorem setSt_dout1 (c : CtxId) (st : ServoState) (s : State) :
    (setSt c st s).dout1 = s.dout1 := rfl
@[simp] theorem setSt_ti (c : CtxId) (st : ServoState) (s : State) :
    (setSt c st s).ti = s.ti := rfl
@[simp] theorem setSt_ts (c : CtxId) (st : ServoState) (s : State) :
    (setSt c st s).ts = s.ts := rfl
@[simp] theorem setSt_pid (c : CtxId) (st : ServoState) (s : State) :
    (setSt c st s).pid = s.pid := rfl
@[simp] theorem setSt_hdr (c : CtxId) (st : ServoState) (s : State) :
    (setSt c st s).hdr = s.hdr := rfl
@[simp] theorem setSt_ann (c : CtxId) (st : ServoState) (s : State) :
    (setSt c st s).ann = s.ann := rfl
@[simp] theorem setSt_leap (c : CtxId) (st : ServoState) (s : State) :
    (setSt c st s).leap = s.leap := rfl
@[simp] theorem setSt_tp (c : CtxId) (st : ServoState) (s : State) :
    (setSt c st s).tp = s.tp := rfl
@[simp] theorem setSt_tlv (c : CtxId) (st : ServoState) (s : State) :
    (setSt c st s).tlv = s.tlv := rfl
@[simp] theorem setSt_win (c : CtxId) (st : ServoState) (s : State) :
    (setSt c st s).win = s.win := rfl
@[simp] theorem setSt_buf (c : CtxId) (st : ServoState) (s : State) :
    (setSt c st s).buf = s.buf := rfl
@[simp] theorem setSt_cc (c : CtxId) (st : ServoState) (s : State) :
    (setSt c st s).cc = s.cc := rfl
@[simp] theorem setSt_svActive (c : CtxId) (st : ServoState) (s : State) :
    (setSt c st s).svActive = s.svActive := rfl
@[simp] theorem setSt_sv (c : CtxId) (st : ServoState) (s : State) :
    (setSt c st s).sv = s.sv.set c.val { s.sv[c] with st := st } := rfl
@[simp] theorem setSt_nowUs (c : CtxId) (st : ServoState) (s : State) :
    (setSt c st s).nowUs = s.nowUs := rfl
@[simp] theorem setSt_tmNext (c : CtxId) (st : ServoState) (s : State) :
    (setSt c st s).tmNext = s.tmNext := rfl
@[simp] theorem setSt_tm (c : CtxId) (st : ServoState) (s : State) :
    (setSt c st s).tm = s.tm := rfl
@[simp] theorem setSt_trace (c : CtxId) (st : ServoState) (s : State) :
    (setSt c st s).trace = s.trace := rfl
@[simp] theorem setSt_result (c : CtxId) (st : ServoState) (s : State) :
    (setSt c st s).result = s.result := rfl
@[simp] theorem setSt_inputs (c : CtxId) (st : ServoState) (s : State) :
    (setSt c st s).inputs = s.inputs := rfl

/-! `setFlt`. -/

@[simp] theorem setFlt_cmd (c : CtxId) (f : FltId) (x : Filter) (s : State) :
    (setFlt c f x s).cmd = s.cmd := rfl
@[simp] theorem setFlt_status (c : CtxId) (f : FltId) (x : Filter) (s : State) :
    (setFlt c f x s).status = s.status := rfl
@[simp] theorem setFlt_evt (c : CtxId) (f : FltId) (x : Filter) (s : State) :
    (setFlt c f x s).evt = s.evt := rfl
@[simp] theorem setFlt_evtMask (c : CtxId) (f : FltId) (x : Filter) (s : State) :
    (setFlt c f x s).evtMask = s.evtMask := rfl
@[simp] theorem setFlt_cmdCnt (c : CtxId) (f : FltId) (x : Filter) (s : State) :
    (setFlt c f x s).cmdCnt = s.cmdCnt := rfl
@[simp] theorem setFlt_dout0 (c : CtxId) (f : FltId) (x : Filter) (s : State) :
    (setFlt c f x s).dout0 = s.dout0 := rfl
@[simp] theorem setFlt_dout1 (c : CtxId) (f : FltId) (x : Filter) (s : State) :
    (setFlt c f x s).dout1 = s.dout1 := rfl
@[simp] theorem setFlt_ti (c : CtxId) (f : FltId) (x : Filter) (s : State) :
    (setFlt c f x s).ti = s.ti := rfl
@[simp] theorem setFlt_ts (c : CtxId) (f : FltId) (x : Filter) (s : State) :
    (setFlt c f x s).ts = s.ts := rfl
@[simp] theorem setFlt_pid (c : CtxId) (f : FltId) (x : Filter) (s : State) :
    (setFlt c f x s).pid = s.pid := rfl
@[simp] theorem setFlt_hdr (c : CtxId) (f : FltId) (x : Filter) (s : State) :
    (setFlt c f x s).hdr = s.hdr := rfl
@[simp] theorem setFlt_ann (c : CtxId) (f : FltId) (x : Filter) (s : State) :
    (setFlt c f x s).ann = s.ann := rfl
@[simp] theorem setFlt_leap (c : CtxId) (f : FltId) (x : Filter) (s : State) :
    (setFlt c f x s).leap = s.leap := rfl
@[simp] theorem setFlt_tp (c : CtxId) (f : FltId) (x : Filter) (s : State) :
    (setFlt c f x s).tp = s.tp := rfl
@[simp] theorem setFlt_tlv (c : CtxId) (f : FltId) (x : Filter) (s : State) :
    (setFlt c f x s).tlv = s.tlv := rfl
@[simp] theorem setFlt_win (c : CtxId) (f : FltId) (x : Filter) (s : State) :
    (setFlt c f x s).win = s.win := rfl
@[simp] theorem setFlt_buf (c : CtxId) (f : FltId) (x : Filter) (s : State) :
    (setFlt c f x s).buf = s.buf := rfl
@[simp] theorem setFlt_cc (c : CtxId) (f : FltId) (x : Filter) (s : State) :
    (setFlt c f x s).cc = s.cc := rfl
@[simp] theorem setFlt_svActive (c : CtxId) (f : FltId) (x : Filter) (s : State) :
    (setFlt c f x s).svActive = s.svActive := rfl
@[simp] theorem setFlt_sv (c : CtxId) (f : FltId) (x : Filter) (s : State) :
    (setFlt c f x s).sv = s.sv.set c.val { s.sv[c] with flt := s.sv[c].flt.set f.val x } := rfl
@[simp] theorem setFlt_nowUs (c : CtxId) (f : FltId) (x : Filter) (s : State) :
    (setFlt c f x s).nowUs = s.nowUs := rfl
@[simp] theorem setFlt_tmNext (c : CtxId) (f : FltId) (x : Filter) (s : State) :
    (setFlt c f x s).tmNext = s.tmNext := rfl
@[simp] theorem setFlt_tm (c : CtxId) (f : FltId) (x : Filter) (s : State) :
    (setFlt c f x s).tm = s.tm := rfl
@[simp] theorem setFlt_trace (c : CtxId) (f : FltId) (x : Filter) (s : State) :
    (setFlt c f x s).trace = s.trace := rfl
@[simp] theorem setFlt_result (c : CtxId) (f : FltId) (x : Filter) (s : State) :
    (setFlt c f x s).result = s.result := rfl
@[simp] theorem setFlt_inputs (c : CtxId) (f : FltId) (x : Filter) (s : State) :
    (setFlt c f x s).inputs = s.inputs := rfl

/-! `setTimer`. -/

@[simp] theorem setTimer_cmd (i : TmrId) (t : Timer) (s : State) :
    (setTimer i t s).cmd = s.cmd := rfl
@[simp] theorem setTimer_status (i : TmrId) (t : Timer) (s : State) :
    (setTimer i t s).status = s.status := rfl
@[simp] theorem setTimer_evt (i : TmrId) (t : Timer) (s : State) :
    (setTimer i t s).evt = s.evt := rfl
@[simp] theorem setTimer_evtMask (i : TmrId) (t : Timer) (s : State) :
    (setTimer i t s).evtMask = s.evtMask := rfl
@[simp] theorem setTimer_cmdCnt (i : TmrId) (t : Timer) (s : State) :
    (setTimer i t s).cmdCnt = s.cmdCnt := rfl
@[simp] theorem setTimer_dout0 (i : TmrId) (t : Timer) (s : State) :
    (setTimer i t s).dout0 = s.dout0 := rfl
@[simp] theorem setTimer_dout1 (i : TmrId) (t : Timer) (s : State) :
    (setTimer i t s).dout1 = s.dout1 := rfl
@[simp] theorem setTimer_ti (i : TmrId) (t : Timer) (s : State) :
    (setTimer i t s).ti = s.ti := rfl
@[simp] theorem setTimer_ts (i : TmrId) (t : Timer) (s : State) :
    (setTimer i t s).ts = s.ts := rfl
@[simp] theorem setTimer_pid (i : TmrId) (t : Timer) (s : State) :
    (setTimer i t s).pid = s.pid := rfl
@[simp] theorem setTimer_hdr (i : TmrId) (t : Timer) (s : State) :
    (setTimer i t s).hdr = s.hdr := rfl
@[simp] theorem setTimer_ann (i : TmrId) (t : Timer) (s : State) :
    (setTimer i t s).ann = s.ann := rfl
@[simp] theorem setTimer_leap (i : TmrId) (t : Timer) (s : State) :
    (setTimer i t s).leap = s.leap := rfl
@[simp] theorem setTimer_tp (i : TmrId) (t : Timer) (s : State) :
    (setTimer i t s).tp = s.tp := rfl
@[simp] theorem setTimer_tlv (i : TmrId) (t : Timer) (s : State) :
    (setTimer i t s).tlv = s.tlv := rfl
@[simp] theorem setTimer_win (i : TmrId) (t : Timer) (s : State) :
    (setTimer i t s).win = s.win := rfl
@[simp] theorem setTimer_buf (i : TmrId) (t : Timer) (s : State) :
    (setTimer i t s).buf = s.buf := rfl
@[simp] theorem setTimer_cc (i : TmrId) (t : Timer) (s : State) :
    (setTimer i t s).cc = s.cc := rfl
@[simp] theorem setTimer_svActive (i : TmrId) (t : Timer) (s : State) :
    (setTimer i t s).svActive = s.svActive := rfl
@[simp] theorem setTimer_sv (i : TmrId) (t : Timer) (s : State) :
    (setTimer i t s).sv = s.sv := rfl
@[simp] theorem setTimer_nowUs (i : TmrId) (t : Timer) (s : State) :
    (setTimer i t s).nowUs = s.nowUs := rfl
@[simp] theorem setTimer_tmNext (i : TmrId) (t : Timer) (s : State) :
    (setTimer i t s).tmNext = s.tmNext := rfl
@[simp] theorem setTimer_tm (i : TmrId) (t : Timer) (s : State) :
    (setTimer i t s).tm = s.tm.set i.val t := rfl
@[simp] theorem setTimer_trace (i : TmrId) (t : Timer) (s : State) :
    (setTimer i t s).trace = s.trace := rfl
@[simp] theorem setTimer_result (i : TmrId) (t : Timer) (s : State) :
    (setTimer i t s).result = s.result := rfl
@[simp] theorem setTimer_inputs (i : TmrId) (t : Timer) (s : State) :
    (setTimer i t s).inputs = s.inputs := rfl

/-! `event`. -/

@[simp] theorem event_cmd (b : BitVec 12) (s : State) :
    (event b s).cmd = s.cmd := rfl
@[simp] theorem event_status (b : BitVec 12) (s : State) :
    (event b s).status = s.status := rfl
@[simp] theorem event_evt (b : BitVec 12) (s : State) :
    (event b s).evt = s.evt ||| b := rfl
@[simp] theorem event_evtMask (b : BitVec 12) (s : State) :
    (event b s).evtMask = s.evtMask := rfl
@[simp] theorem event_cmdCnt (b : BitVec 12) (s : State) :
    (event b s).cmdCnt = s.cmdCnt := rfl
@[simp] theorem event_dout0 (b : BitVec 12) (s : State) :
    (event b s).dout0 = s.dout0 := rfl
@[simp] theorem event_dout1 (b : BitVec 12) (s : State) :
    (event b s).dout1 = s.dout1 := rfl
@[simp] theorem event_ti (b : BitVec 12) (s : State) :
    (event b s).ti = s.ti := rfl
@[simp] theorem event_ts (b : BitVec 12) (s : State) :
    (event b s).ts = s.ts := rfl
@[simp] theorem event_pid (b : BitVec 12) (s : State) :
    (event b s).pid = s.pid := rfl
@[simp] theorem event_hdr (b : BitVec 12) (s : State) :
    (event b s).hdr = s.hdr := rfl
@[simp] theorem event_ann (b : BitVec 12) (s : State) :
    (event b s).ann = s.ann := rfl
@[simp] theorem event_leap (b : BitVec 12) (s : State) :
    (event b s).leap = s.leap := rfl
@[simp] theorem event_tp (b : BitVec 12) (s : State) :
    (event b s).tp = s.tp := rfl
@[simp] theorem event_tlv (b : BitVec 12) (s : State) :
    (event b s).tlv = s.tlv := rfl
@[simp] theorem event_win (b : BitVec 12) (s : State) :
    (event b s).win = s.win := rfl
@[simp] theorem event_buf (b : BitVec 12) (s : State) :
    (event b s).buf = s.buf := rfl
@[simp] theorem event_cc (b : BitVec 12) (s : State) :
    (event b s).cc = s.cc := rfl
@[simp] theorem event_svActive (b : BitVec 12) (s : State) :
    (event b s).svActive = s.svActive := rfl
@[simp] theorem event_sv (b : BitVec 12) (s : State) :
    (event b s).sv = s.sv := rfl
@[simp] theorem event_nowUs (b : BitVec 12) (s : State) :
    (event b s).nowUs = s.nowUs := rfl
@[simp] theorem event_tmNext (b : BitVec 12) (s : State) :
    (event b s).tmNext = s.tmNext := rfl
@[simp] theorem event_tm (b : BitVec 12) (s : State) :
    (event b s).tm = s.tm := rfl
@[simp] theorem event_trace (b : BitVec 12) (s : State) :
    (event b s).trace = s.trace := rfl
@[simp] theorem event_result (b : BitVec 12) (s : State) :
    (event b s).result = s.result := rfl
@[simp] theorem event_inputs (b : BitVec 12) (s : State) :
    (event b s).inputs = s.inputs := rfl

/-! `clearEvents`. -/

@[simp] theorem clearEvents_cmd (b : BitVec 12) (s : State) :
    (clearEvents b s).cmd = s.cmd := rfl
@[simp] theorem clearEvents_status (b : BitVec 12) (s : State) :
    (clearEvents b s).status = s.status := rfl
@[simp] theorem clearEvents_evt (b : BitVec 12) (s : State) :
    (clearEvents b s).evt = s.evt &&& ~~~b := rfl
@[simp] theorem clearEvents_evtMask (b : BitVec 12) (s : State) :
    (clearEvents b s).evtMask = s.evtMask := rfl
@[simp] theorem clearEvents_cmdCnt (b : BitVec 12) (s : State) :
    (clearEvents b s).cmdCnt = s.cmdCnt := rfl
@[simp] theorem clearEvents_dout0 (b : BitVec 12) (s : State) :
    (clearEvents b s).dout0 = s.dout0 := rfl
@[simp] theorem clearEvents_dout1 (b : BitVec 12) (s : State) :
    (clearEvents b s).dout1 = s.dout1 := rfl
@[simp] theorem clearEvents_ti (b : BitVec 12) (s : State) :
    (clearEvents b s).ti = s.ti := rfl
@[simp] theorem clearEvents_ts (b : BitVec 12) (s : State) :
    (clearEvents b s).ts = s.ts := rfl
@[simp] theorem clearEvents_pid (b : BitVec 12) (s : State) :
    (clearEvents b s).pid = s.pid := rfl
@[simp] theorem clearEvents_hdr (b : BitVec 12) (s : State) :
    (clearEvents b s).hdr = s.hdr := rfl
@[simp] theorem clearEvents_ann (b : BitVec 12) (s : State) :
    (clearEvents b s).ann = s.ann := rfl
@[simp] theorem clearEvents_leap (b : BitVec 12) (s : State) :
    (clearEvents b s).leap = s.leap := rfl
@[simp] theorem clearEvents_tp (b : BitVec 12) (s : State) :
    (clearEvents b s).tp = s.tp := rfl
@[simp] theorem clearEvents_tlv (b : BitVec 12) (s : State) :
    (clearEvents b s).tlv = s.tlv := rfl
@[simp] theorem clearEvents_win (b : BitVec 12) (s : State) :
    (clearEvents b s).win = s.win := rfl
@[simp] theorem clearEvents_buf (b : BitVec 12) (s : State) :
    (clearEvents b s).buf = s.buf := rfl
@[simp] theorem clearEvents_cc (b : BitVec 12) (s : State) :
    (clearEvents b s).cc = s.cc := rfl
@[simp] theorem clearEvents_svActive (b : BitVec 12) (s : State) :
    (clearEvents b s).svActive = s.svActive := rfl
@[simp] theorem clearEvents_sv (b : BitVec 12) (s : State) :
    (clearEvents b s).sv = s.sv := rfl
@[simp] theorem clearEvents_nowUs (b : BitVec 12) (s : State) :
    (clearEvents b s).nowUs = s.nowUs := rfl
@[simp] theorem clearEvents_tmNext (b : BitVec 12) (s : State) :
    (clearEvents b s).tmNext = s.tmNext := rfl
@[simp] theorem clearEvents_tm (b : BitVec 12) (s : State) :
    (clearEvents b s).tm = s.tm := rfl
@[simp] theorem clearEvents_trace (b : BitVec 12) (s : State) :
    (clearEvents b s).trace = s.trace := rfl
@[simp] theorem clearEvents_result (b : BitVec 12) (s : State) :
    (clearEvents b s).result = s.result := rfl
@[simp] theorem clearEvents_inputs (b : BitVec 12) (s : State) :
    (clearEvents b s).inputs = s.inputs := rfl

/-! `setBuf`. -/

@[simp] theorem setBuf_cmd (f : Memory → Memory) (s : State) :
    (setBuf f s).cmd = s.cmd := rfl
@[simp] theorem setBuf_status (f : Memory → Memory) (s : State) :
    (setBuf f s).status = s.status := rfl
@[simp] theorem setBuf_evt (f : Memory → Memory) (s : State) :
    (setBuf f s).evt = s.evt := rfl
@[simp] theorem setBuf_evtMask (f : Memory → Memory) (s : State) :
    (setBuf f s).evtMask = s.evtMask := rfl
@[simp] theorem setBuf_cmdCnt (f : Memory → Memory) (s : State) :
    (setBuf f s).cmdCnt = s.cmdCnt := rfl
@[simp] theorem setBuf_dout0 (f : Memory → Memory) (s : State) :
    (setBuf f s).dout0 = s.dout0 := rfl
@[simp] theorem setBuf_dout1 (f : Memory → Memory) (s : State) :
    (setBuf f s).dout1 = s.dout1 := rfl
@[simp] theorem setBuf_ti (f : Memory → Memory) (s : State) :
    (setBuf f s).ti = s.ti := rfl
@[simp] theorem setBuf_ts (f : Memory → Memory) (s : State) :
    (setBuf f s).ts = s.ts := rfl
@[simp] theorem setBuf_pid (f : Memory → Memory) (s : State) :
    (setBuf f s).pid = s.pid := rfl
@[simp] theorem setBuf_hdr (f : Memory → Memory) (s : State) :
    (setBuf f s).hdr = s.hdr := rfl
@[simp] theorem setBuf_ann (f : Memory → Memory) (s : State) :
    (setBuf f s).ann = s.ann := rfl
@[simp] theorem setBuf_leap (f : Memory → Memory) (s : State) :
    (setBuf f s).leap = s.leap := rfl
@[simp] theorem setBuf_tp (f : Memory → Memory) (s : State) :
    (setBuf f s).tp = s.tp := rfl
@[simp] theorem setBuf_tlv (f : Memory → Memory) (s : State) :
    (setBuf f s).tlv = s.tlv := rfl
@[simp] theorem setBuf_win (f : Memory → Memory) (s : State) :
    (setBuf f s).win = s.win := rfl
@[simp] theorem setBuf_buf (f : Memory → Memory) (s : State) :
    (setBuf f s).buf = f s.buf := rfl
@[simp] theorem setBuf_cc (f : Memory → Memory) (s : State) :
    (setBuf f s).cc = s.cc := rfl
@[simp] theorem setBuf_svActive (f : Memory → Memory) (s : State) :
    (setBuf f s).svActive = s.svActive := rfl
@[simp] theorem setBuf_sv (f : Memory → Memory) (s : State) :
    (setBuf f s).sv = s.sv := rfl
@[simp] theorem setBuf_nowUs (f : Memory → Memory) (s : State) :
    (setBuf f s).nowUs = s.nowUs := rfl
@[simp] theorem setBuf_tmNext (f : Memory → Memory) (s : State) :
    (setBuf f s).tmNext = s.tmNext := rfl
@[simp] theorem setBuf_tm (f : Memory → Memory) (s : State) :
    (setBuf f s).tm = s.tm := rfl
@[simp] theorem setBuf_trace (f : Memory → Memory) (s : State) :
    (setBuf f s).trace = s.trace := rfl
@[simp] theorem setBuf_result (f : Memory → Memory) (s : State) :
    (setBuf f s).result = s.result := rfl
@[simp] theorem setBuf_inputs (f : Memory → Memory) (s : State) :
    (setBuf f s).inputs = s.inputs := rfl

/-! `emit`. -/

@[simp] theorem emit_cmd (c : Call) (s : State) :
    (emit c s).cmd = s.cmd := rfl
@[simp] theorem emit_status (c : Call) (s : State) :
    (emit c s).status = s.status := rfl
@[simp] theorem emit_evt (c : Call) (s : State) :
    (emit c s).evt = s.evt := rfl
@[simp] theorem emit_evtMask (c : Call) (s : State) :
    (emit c s).evtMask = s.evtMask := rfl
@[simp] theorem emit_cmdCnt (c : Call) (s : State) :
    (emit c s).cmdCnt = s.cmdCnt := rfl
@[simp] theorem emit_dout0 (c : Call) (s : State) :
    (emit c s).dout0 = s.dout0 := rfl
@[simp] theorem emit_dout1 (c : Call) (s : State) :
    (emit c s).dout1 = s.dout1 := rfl
@[simp] theorem emit_ti (c : Call) (s : State) :
    (emit c s).ti = s.ti := rfl
@[simp] theorem emit_ts (c : Call) (s : State) :
    (emit c s).ts = s.ts := rfl
@[simp] theorem emit_pid (c : Call) (s : State) :
    (emit c s).pid = s.pid := rfl
@[simp] theorem emit_hdr (c : Call) (s : State) :
    (emit c s).hdr = s.hdr := rfl
@[simp] theorem emit_ann (c : Call) (s : State) :
    (emit c s).ann = s.ann := rfl
@[simp] theorem emit_leap (c : Call) (s : State) :
    (emit c s).leap = s.leap := rfl
@[simp] theorem emit_tp (c : Call) (s : State) :
    (emit c s).tp = s.tp := rfl
@[simp] theorem emit_tlv (c : Call) (s : State) :
    (emit c s).tlv = s.tlv := rfl
@[simp] theorem emit_win (c : Call) (s : State) :
    (emit c s).win = s.win := rfl
@[simp] theorem emit_buf (c : Call) (s : State) :
    (emit c s).buf = s.buf := rfl
@[simp] theorem emit_cc (c : Call) (s : State) :
    (emit c s).cc = recordCall s.cc c := rfl
@[simp] theorem emit_svActive (c : Call) (s : State) :
    (emit c s).svActive = s.svActive := rfl
@[simp] theorem emit_sv (c : Call) (s : State) :
    (emit c s).sv = s.sv := rfl
@[simp] theorem emit_nowUs (c : Call) (s : State) :
    (emit c s).nowUs = s.nowUs := rfl
@[simp] theorem emit_tmNext (c : Call) (s : State) :
    (emit c s).tmNext = s.tmNext := rfl
@[simp] theorem emit_tm (c : Call) (s : State) :
    (emit c s).tm = s.tm := rfl
@[simp] theorem emit_trace (c : Call) (s : State) :
    (emit c s).trace = s.trace ++ [c] := rfl
@[simp] theorem emit_result (c : Call) (s : State) :
    (emit c s).result = s.result := rfl
@[simp] theorem emit_inputs (c : Call) (s : State) :
    (emit c s).inputs = s.inputs := rfl

/-! `setPtr`. -/

@[simp] theorem setPtr_cmd (p : Nat) (s : State) :
    (setPtr p s).cmd = s.cmd := rfl
@[simp] theorem setPtr_status (p : Nat) (s : State) :
    (setPtr p s).status = s.status := rfl
@[simp] theorem setPtr_evt (p : Nat) (s : State) :
    (setPtr p s).evt = s.evt := rfl
@[simp] theorem setPtr_evtMask (p : Nat) (s : State) :
    (setPtr p s).evtMask = s.evtMask := rfl
@[simp] theorem setPtr_cmdCnt (p : Nat) (s : State) :
    (setPtr p s).cmdCnt = s.cmdCnt := rfl
@[simp] theorem setPtr_dout0 (p : Nat) (s : State) :
    (setPtr p s).dout0 = s.dout0 := rfl
@[simp] theorem setPtr_dout1 (p : Nat) (s : State) :
    (setPtr p s).dout1 = s.dout1 := rfl
@[simp] theorem setPtr_ti (p : Nat) (s : State) :
    (setPtr p s).ti = s.ti := rfl
@[simp] theorem setPtr_ts (p : Nat) (s : State) :
    (setPtr p s).ts = s.ts := rfl
@[simp] theorem setPtr_pid (p : Nat) (s : State) :
    (setPtr p s).pid = s.pid := rfl
@[simp] theorem setPtr_hdr (p : Nat) (s : State) :
    (setPtr p s).hdr = s.hdr := rfl
@[simp] theorem setPtr_ann (p : Nat) (s : State) :
    (setPtr p s).ann = s.ann := rfl
@[simp] theorem setPtr_leap (p : Nat) (s : State) :
    (setPtr p s).leap = s.leap := rfl
@[simp] theorem setPtr_tp (p : Nat) (s : State) :
    (setPtr p s).tp = s.tp := rfl
@[simp] theorem setPtr_tlv (p : Nat) (s : State) :
    (setPtr p s).tlv = s.tlv := rfl
@[simp] theorem setPtr_win (p : Nat) (s : State) :
    (setPtr p s).win = { s.win with ptr := BitVec.ofNat 16 p } := rfl
@[simp] theorem setPtr_buf (p : Nat) (s : State) :
    (setPtr p s).buf = s.buf := rfl
@[simp] theorem setPtr_cc (p : Nat) (s : State) :
    (setPtr p s).cc = s.cc := rfl
@[simp] theorem setPtr_svActive (p : Nat) (s : State) :
    (setPtr p s).svActive = s.svActive := rfl
@[simp] theorem setPtr_sv (p : Nat) (s : State) :
    (setPtr p s).sv = s.sv := rfl
@[simp] theorem setPtr_nowUs (p : Nat) (s : State) :
    (setPtr p s).nowUs = s.nowUs := rfl
@[simp] theorem setPtr_tmNext (p : Nat) (s : State) :
    (setPtr p s).tmNext = s.tmNext := rfl
@[simp] theorem setPtr_tm (p : Nat) (s : State) :
    (setPtr p s).tm = s.tm := rfl
@[simp] theorem setPtr_trace (p : Nat) (s : State) :
    (setPtr p s).trace = s.trace := rfl
@[simp] theorem setPtr_result (p : Nat) (s : State) :
    (setPtr p s).result = s.result := rfl
@[simp] theorem setPtr_inputs (p : Nat) (s : State) :
    (setPtr p s).inputs = s.inputs := rfl

/-! `bumpAddr`. -/

@[simp] theorem bumpAddr_cmd (s : State) :
    (bumpAddr s).cmd = s.cmd := rfl
@[simp] theorem bumpAddr_status (s : State) :
    (bumpAddr s).status = s.status := rfl
@[simp] theorem bumpAddr_evt (s : State) :
    (bumpAddr s).evt = s.evt := rfl
@[simp] theorem bumpAddr_evtMask (s : State) :
    (bumpAddr s).evtMask = s.evtMask := rfl
@[simp] theorem bumpAddr_cmdCnt (s : State) :
    (bumpAddr s).cmdCnt = s.cmdCnt := rfl
@[simp] theorem bumpAddr_dout0 (s : State) :
    (bumpAddr s).dout0 = s.dout0 := rfl
@[simp] theorem bumpAddr_dout1 (s : State) :
    (bumpAddr s).dout1 = s.dout1 := rfl
@[simp] theorem bumpAddr_ti (s : State) :
    (bumpAddr s).ti = s.ti := rfl
@[simp] theorem bumpAddr_ts (s : State) :
    (bumpAddr s).ts = s.ts := rfl
@[simp] theorem bumpAddr_pid (s : State) :
    (bumpAddr s).pid = s.pid := rfl
@[simp] theorem bumpAddr_hdr (s : State) :
    (bumpAddr s).hdr = s.hdr := rfl
@[simp] theorem bumpAddr_ann (s : State) :
    (bumpAddr s).ann = s.ann := rfl
@[simp] theorem bumpAddr_leap (s : State) :
    (bumpAddr s).leap = s.leap := rfl
@[simp] theorem bumpAddr_tp (s : State) :
    (bumpAddr s).tp = s.tp := rfl
@[simp] theorem bumpAddr_tlv (s : State) :
    (bumpAddr s).tlv = s.tlv := rfl
@[simp] theorem bumpAddr_win (s : State) :
    (bumpAddr s).win = { s.win with addr := s.win.addr + 1 } := rfl
@[simp] theorem bumpAddr_buf (s : State) :
    (bumpAddr s).buf = s.buf := rfl
@[simp] theorem bumpAddr_cc (s : State) :
    (bumpAddr s).cc = s.cc := rfl
@[simp] theorem bumpAddr_svActive (s : State) :
    (bumpAddr s).svActive = s.svActive := rfl
@[simp] theorem bumpAddr_sv (s : State) :
    (bumpAddr s).sv = s.sv := rfl
@[simp] theorem bumpAddr_nowUs (s : State) :
    (bumpAddr s).nowUs = s.nowUs := rfl
@[simp] theorem bumpAddr_tmNext (s : State) :
    (bumpAddr s).tmNext = s.tmNext := rfl
@[simp] theorem bumpAddr_tm (s : State) :
    (bumpAddr s).tm = s.tm := rfl
@[simp] theorem bumpAddr_trace (s : State) :
    (bumpAddr s).trace = s.trace := rfl
@[simp] theorem bumpAddr_result (s : State) :
    (bumpAddr s).result = s.result := rfl
@[simp] theorem bumpAddr_inputs (s : State) :
    (bumpAddr s).inputs = s.inputs := rfl

/-! `takeError`. -/

@[simp] theorem takeError_cmd (e : Err) (s : State) :
    (takeError e s).cmd = s.cmd := rfl
@[simp] theorem takeError_status (e : Err) (s : State) :
    (takeError e s).status = statusErr s.status e := rfl
@[simp] theorem takeError_evt (e : Err) (s : State) :
    (takeError e s).evt = s.evt := rfl
@[simp] theorem takeError_evtMask (e : Err) (s : State) :
    (takeError e s).evtMask = s.evtMask := rfl
@[simp] theorem takeError_cmdCnt (e : Err) (s : State) :
    (takeError e s).cmdCnt = s.cmdCnt + 1 := rfl
@[simp] theorem takeError_dout0 (e : Err) (s : State) :
    (takeError e s).dout0 = s.dout0 := rfl
@[simp] theorem takeError_dout1 (e : Err) (s : State) :
    (takeError e s).dout1 = s.dout1 := rfl
@[simp] theorem takeError_ti (e : Err) (s : State) :
    (takeError e s).ti = s.ti := rfl
@[simp] theorem takeError_ts (e : Err) (s : State) :
    (takeError e s).ts = s.ts := rfl
@[simp] theorem takeError_pid (e : Err) (s : State) :
    (takeError e s).pid = s.pid := rfl
@[simp] theorem takeError_hdr (e : Err) (s : State) :
    (takeError e s).hdr = s.hdr := rfl
@[simp] theorem takeError_ann (e : Err) (s : State) :
    (takeError e s).ann = s.ann := rfl
@[simp] theorem takeError_leap (e : Err) (s : State) :
    (takeError e s).leap = s.leap := rfl
@[simp] theorem takeError_tp (e : Err) (s : State) :
    (takeError e s).tp = s.tp := rfl
@[simp] theorem takeError_tlv (e : Err) (s : State) :
    (takeError e s).tlv = s.tlv := rfl
@[simp] theorem takeError_win (e : Err) (s : State) :
    (takeError e s).win = s.win := rfl
@[simp] theorem takeError_buf (e : Err) (s : State) :
    (takeError e s).buf = s.buf := rfl
@[simp] theorem takeError_cc (e : Err) (s : State) :
    (takeError e s).cc = s.cc := rfl
@[simp] theorem takeError_svActive (e : Err) (s : State) :
    (takeError e s).svActive = s.svActive := rfl
@[simp] theorem takeError_sv (e : Err) (s : State) :
    (takeError e s).sv = s.sv := rfl
@[simp] theorem takeError_nowUs (e : Err) (s : State) :
    (takeError e s).nowUs = s.nowUs := rfl
@[simp] theorem takeError_tmNext (e : Err) (s : State) :
    (takeError e s).tmNext = s.tmNext := rfl
@[simp] theorem takeError_tm (e : Err) (s : State) :
    (takeError e s).tm = s.tm := rfl
@[simp] theorem takeError_trace (e : Err) (s : State) :
    (takeError e s).trace = s.trace := rfl
@[simp] theorem takeError_result (e : Err) (s : State) :
    (takeError e s).result = s.result := rfl
@[simp] theorem takeError_inputs (e : Err) (s : State) :
    (takeError e s).inputs = s.inputs := rfl

/-! `complete`. -/

@[simp] theorem complete_cmd (s : State) (v : Bool) :
    (complete s v).cmd = s.cmd := rfl
@[simp] theorem complete_status (s : State) (v : Bool) :
    (complete s v).status = statusOk s.status v := rfl
@[simp] theorem complete_evt (s : State) (v : Bool) :
    (complete s v).evt = s.evt := rfl
@[simp] theorem complete_evtMask (s : State) (v : Bool) :
    (complete s v).evtMask = s.evtMask := rfl
@[simp] theorem complete_cmdCnt (s : State) (v : Bool) :
    (complete s v).cmdCnt = s.cmdCnt + 1 := rfl
@[simp] theorem complete_dout0 (s : State) (v : Bool) :
    (complete s v).dout0 = s.dout0 := rfl
@[simp] theorem complete_dout1 (s : State) (v : Bool) :
    (complete s v).dout1 = s.dout1 := rfl
@[simp] theorem complete_ti (s : State) (v : Bool) :
    (complete s v).ti = s.ti := rfl
@[simp] theorem complete_ts (s : State) (v : Bool) :
    (complete s v).ts = s.ts := rfl
@[simp] theorem complete_pid (s : State) (v : Bool) :
    (complete s v).pid = s.pid := rfl
@[simp] theorem complete_hdr (s : State) (v : Bool) :
    (complete s v).hdr = s.hdr := rfl
@[simp] theorem complete_ann (s : State) (v : Bool) :
    (complete s v).ann = s.ann := rfl
@[simp] theorem complete_leap (s : State) (v : Bool) :
    (complete s v).leap = s.leap := rfl
@[simp] theorem complete_tp (s : State) (v : Bool) :
    (complete s v).tp = s.tp := rfl
@[simp] theorem complete_tlv (s : State) (v : Bool) :
    (complete s v).tlv = s.tlv := rfl
@[simp] theorem complete_win (s : State) (v : Bool) :
    (complete s v).win = s.win := rfl
@[simp] theorem complete_buf (s : State) (v : Bool) :
    (complete s v).buf = s.buf := rfl
@[simp] theorem complete_cc (s : State) (v : Bool) :
    (complete s v).cc = s.cc := rfl
@[simp] theorem complete_svActive (s : State) (v : Bool) :
    (complete s v).svActive = s.svActive := rfl
@[simp] theorem complete_sv (s : State) (v : Bool) :
    (complete s v).sv = s.sv := rfl
@[simp] theorem complete_nowUs (s : State) (v : Bool) :
    (complete s v).nowUs = s.nowUs := rfl
@[simp] theorem complete_tmNext (s : State) (v : Bool) :
    (complete s v).tmNext = s.tmNext := rfl
@[simp] theorem complete_tm (s : State) (v : Bool) :
    (complete s v).tm = s.tm := rfl
@[simp] theorem complete_trace (s : State) (v : Bool) :
    (complete s v).trace = s.trace := rfl
@[simp] theorem complete_result (s : State) (v : Bool) :
    (complete s v).result = s.result := rfl
@[simp] theorem complete_inputs (s : State) (v : Bool) :
    (complete s v).inputs = s.inputs := rfl

/-! `latchCmd`. -/

@[simp] theorem latchCmd_cmd (w : CommandWord) (s : State) :
    (latchCmd w s).cmd = w := rfl
@[simp] theorem latchCmd_status (w : CommandWord) (s : State) :
    (latchCmd w s).status = s.status := rfl
@[simp] theorem latchCmd_evt (w : CommandWord) (s : State) :
    (latchCmd w s).evt = s.evt := rfl
@[simp] theorem latchCmd_evtMask (w : CommandWord) (s : State) :
    (latchCmd w s).evtMask = s.evtMask := rfl
@[simp] theorem latchCmd_cmdCnt (w : CommandWord) (s : State) :
    (latchCmd w s).cmdCnt = s.cmdCnt := rfl
@[simp] theorem latchCmd_dout0 (w : CommandWord) (s : State) :
    (latchCmd w s).dout0 = s.dout0 := rfl
@[simp] theorem latchCmd_dout1 (w : CommandWord) (s : State) :
    (latchCmd w s).dout1 = s.dout1 := rfl
@[simp] theorem latchCmd_ti (w : CommandWord) (s : State) :
    (latchCmd w s).ti = s.ti := rfl
@[simp] theorem latchCmd_ts (w : CommandWord) (s : State) :
    (latchCmd w s).ts = s.ts := rfl
@[simp] theorem latchCmd_pid (w : CommandWord) (s : State) :
    (latchCmd w s).pid = s.pid := rfl
@[simp] theorem latchCmd_hdr (w : CommandWord) (s : State) :
    (latchCmd w s).hdr = s.hdr := rfl
@[simp] theorem latchCmd_ann (w : CommandWord) (s : State) :
    (latchCmd w s).ann = s.ann := rfl
@[simp] theorem latchCmd_leap (w : CommandWord) (s : State) :
    (latchCmd w s).leap = s.leap := rfl
@[simp] theorem latchCmd_tp (w : CommandWord) (s : State) :
    (latchCmd w s).tp = s.tp := rfl
@[simp] theorem latchCmd_tlv (w : CommandWord) (s : State) :
    (latchCmd w s).tlv = s.tlv := rfl
@[simp] theorem latchCmd_win (w : CommandWord) (s : State) :
    (latchCmd w s).win = s.win := rfl
@[simp] theorem latchCmd_buf (w : CommandWord) (s : State) :
    (latchCmd w s).buf = s.buf := rfl
@[simp] theorem latchCmd_cc (w : CommandWord) (s : State) :
    (latchCmd w s).cc = s.cc := rfl
@[simp] theorem latchCmd_svActive (w : CommandWord) (s : State) :
    (latchCmd w s).svActive = s.svActive := rfl
@[simp] theorem latchCmd_sv (w : CommandWord) (s : State) :
    (latchCmd w s).sv = s.sv := rfl
@[simp] theorem latchCmd_nowUs (w : CommandWord) (s : State) :
    (latchCmd w s).nowUs = s.nowUs := rfl
@[simp] theorem latchCmd_tmNext (w : CommandWord) (s : State) :
    (latchCmd w s).tmNext = s.tmNext := rfl
@[simp] theorem latchCmd_tm (w : CommandWord) (s : State) :
    (latchCmd w s).tm = s.tm := rfl
@[simp] theorem latchCmd_trace (w : CommandWord) (s : State) :
    (latchCmd w s).trace = s.trace := rfl
@[simp] theorem latchCmd_result (w : CommandWord) (s : State) :
    (latchCmd w s).result = none := rfl
@[simp] theorem latchCmd_inputs (w : CommandWord) (s : State) :
    (latchCmd w s).inputs = s.inputs := rfl

/-! `popTxn`. -/

@[simp] theorem popTxn_cmd (r : List Txn) (s : State) :
    (popTxn r s).cmd = s.cmd := rfl
@[simp] theorem popTxn_status (r : List Txn) (s : State) :
    (popTxn r s).status = s.status := rfl
@[simp] theorem popTxn_evt (r : List Txn) (s : State) :
    (popTxn r s).evt = s.evt := rfl
@[simp] theorem popTxn_evtMask (r : List Txn) (s : State) :
    (popTxn r s).evtMask = s.evtMask := rfl
@[simp] theorem popTxn_cmdCnt (r : List Txn) (s : State) :
    (popTxn r s).cmdCnt = s.cmdCnt := rfl
@[simp] theorem popTxn_dout0 (r : List Txn) (s : State) :
    (popTxn r s).dout0 = s.dout0 := rfl
@[simp] theorem popTxn_dout1 (r : List Txn) (s : State) :
    (popTxn r s).dout1 = s.dout1 := rfl
@[simp] theorem popTxn_ti (r : List Txn) (s : State) :
    (popTxn r s).ti = s.ti := rfl
@[simp] theorem popTxn_ts (r : List Txn) (s : State) :
    (popTxn r s).ts = s.ts := rfl
@[simp] theorem popTxn_pid (r : List Txn) (s : State) :
    (popTxn r s).pid = s.pid := rfl
@[simp] theorem popTxn_hdr (r : List Txn) (s : State) :
    (popTxn r s).hdr = s.hdr := rfl
@[simp] theorem popTxn_ann (r : List Txn) (s : State) :
    (popTxn r s).ann = s.ann := rfl
@[simp] theorem popTxn_leap (r : List Txn) (s : State) :
    (popTxn r s).leap = s.leap := rfl
@[simp] theorem popTxn_tp (r : List Txn) (s : State) :
    (popTxn r s).tp = s.tp := rfl
@[simp] theorem popTxn_tlv (r : List Txn) (s : State) :
    (popTxn r s).tlv = s.tlv := rfl
@[simp] theorem popTxn_win (r : List Txn) (s : State) :
    (popTxn r s).win = s.win := rfl
@[simp] theorem popTxn_buf (r : List Txn) (s : State) :
    (popTxn r s).buf = s.buf := rfl
@[simp] theorem popTxn_cc (r : List Txn) (s : State) :
    (popTxn r s).cc = s.cc := rfl
@[simp] theorem popTxn_svActive (r : List Txn) (s : State) :
    (popTxn r s).svActive = s.svActive := rfl
@[simp] theorem popTxn_sv (r : List Txn) (s : State) :
    (popTxn r s).sv = s.sv := rfl
@[simp] theorem popTxn_nowUs (r : List Txn) (s : State) :
    (popTxn r s).nowUs = s.nowUs := rfl
@[simp] theorem popTxn_tmNext (r : List Txn) (s : State) :
    (popTxn r s).tmNext = s.tmNext := rfl
@[simp] theorem popTxn_tm (r : List Txn) (s : State) :
    (popTxn r s).tm = s.tm := rfl
@[simp] theorem popTxn_trace (r : List Txn) (s : State) :
    (popTxn r s).trace = s.trace := rfl
@[simp] theorem popTxn_result (r : List Txn) (s : State) :
    (popTxn r s).result = s.result := rfl
@[simp] theorem popTxn_inputs (r : List Txn) (s : State) :
    (popTxn r s).inputs = { s.inputs with pending := r } := rfl

/-! `takeAnswer`. -/

@[simp] theorem takeAnswer_cmd (d : TsReg) (s : State) :
    (takeAnswer d s).cmd = s.cmd := rfl
@[simp] theorem takeAnswer_status (d : TsReg) (s : State) :
    (takeAnswer d s).status = s.status := rfl
@[simp] theorem takeAnswer_evt (d : TsReg) (s : State) :
    (takeAnswer d s).evt = s.evt := rfl
@[simp] theorem takeAnswer_evtMask (d : TsReg) (s : State) :
    (takeAnswer d s).evtMask = s.evtMask := rfl
@[simp] theorem takeAnswer_cmdCnt (d : TsReg) (s : State) :
    (takeAnswer d s).cmdCnt = s.cmdCnt := rfl
@[simp] theorem takeAnswer_dout0 (d : TsReg) (s : State) :
    (takeAnswer d s).dout0 = (nextAnswer s.inputs).tick := rfl
@[simp] theorem takeAnswer_dout1 (d : TsReg) (s : State) :
    (takeAnswer d s).dout1 = s.dout1 := rfl
@[simp] theorem takeAnswer_ti (d : TsReg) (s : State) :
    (takeAnswer d s).ti = s.ti := rfl
@[simp] theorem takeAnswer_ts (d : TsReg) (s : State) :
    (takeAnswer d s).ts = s.ts.set d.val (answerTime (nextAnswer s.inputs)) := rfl
@[simp] theorem takeAnswer_pid (d : TsReg) (s : State) :
    (takeAnswer d s).pid = s.pid := rfl
@[simp] theorem takeAnswer_hdr (d : TsReg) (s : State) :
    (takeAnswer d s).hdr = s.hdr := rfl
@[simp] theorem takeAnswer_ann (d : TsReg) (s : State) :
    (takeAnswer d s).ann = s.ann := rfl
@[simp] theorem takeAnswer_leap (d : TsReg) (s : State) :
    (takeAnswer d s).leap = s.leap := rfl
@[simp] theorem takeAnswer_tp (d : TsReg) (s : State) :
    (takeAnswer d s).tp = s.tp := rfl
@[simp] theorem takeAnswer_tlv (d : TsReg) (s : State) :
    (takeAnswer d s).tlv = s.tlv := rfl
@[simp] theorem takeAnswer_win (d : TsReg) (s : State) :
    (takeAnswer d s).win = s.win := rfl
@[simp] theorem takeAnswer_buf (d : TsReg) (s : State) :
    (takeAnswer d s).buf = s.buf := rfl
@[simp] theorem takeAnswer_cc (d : TsReg) (s : State) :
    (takeAnswer d s).cc = { s.cc with tickCnt := (nextAnswer s.inputs).tick } := rfl
@[simp] theorem takeAnswer_svActive (d : TsReg) (s : State) :
    (takeAnswer d s).svActive = s.svActive := rfl
@[simp] theorem takeAnswer_sv (d : TsReg) (s : State) :
    (takeAnswer d s).sv = s.sv := rfl
@[simp] theorem takeAnswer_nowUs (d : TsReg) (s : State) :
    (takeAnswer d s).nowUs = s.nowUs := rfl
@[simp] theorem takeAnswer_tmNext (d : TsReg) (s : State) :
    (takeAnswer d s).tmNext = s.tmNext := rfl
@[simp] theorem takeAnswer_tm (d : TsReg) (s : State) :
    (takeAnswer d s).tm = s.tm := rfl
@[simp] theorem takeAnswer_trace (d : TsReg) (s : State) :
    (takeAnswer d s).trace = s.trace := rfl
@[simp] theorem takeAnswer_result (d : TsReg) (s : State) :
    (takeAnswer d s).result = s.result := rfl
@[simp] theorem takeAnswer_inputs (d : TsReg) (s : State) :
    (takeAnswer d s).inputs = afterAnswer s.inputs := rfl

/-! `resetCsrs`. -/

@[simp] theorem resetCsrs_cmd (s : State) :
    (resetCsrs s).cmd = State.reset.cmd := rfl
@[simp] theorem resetCsrs_status (s : State) :
    (resetCsrs s).status = State.reset.status := rfl
@[simp] theorem resetCsrs_evt (s : State) :
    (resetCsrs s).evt = State.reset.evt := rfl
@[simp] theorem resetCsrs_evtMask (s : State) :
    (resetCsrs s).evtMask = State.reset.evtMask := rfl
@[simp] theorem resetCsrs_cmdCnt (s : State) :
    (resetCsrs s).cmdCnt = State.reset.cmdCnt := rfl
@[simp] theorem resetCsrs_dout0 (s : State) :
    (resetCsrs s).dout0 = State.reset.dout0 := rfl
@[simp] theorem resetCsrs_dout1 (s : State) :
    (resetCsrs s).dout1 = State.reset.dout1 := rfl
@[simp] theorem resetCsrs_ti (s : State) :
    (resetCsrs s).ti = State.reset.ti := rfl
@[simp] theorem resetCsrs_ts (s : State) :
    (resetCsrs s).ts = State.reset.ts := rfl
@[simp] theorem resetCsrs_pid (s : State) :
    (resetCsrs s).pid = State.reset.pid := rfl
@[simp] theorem resetCsrs_hdr (s : State) :
    (resetCsrs s).hdr = State.reset.hdr := rfl
@[simp] theorem resetCsrs_ann (s : State) :
    (resetCsrs s).ann = State.reset.ann := rfl
@[simp] theorem resetCsrs_leap (s : State) :
    (resetCsrs s).leap = State.reset.leap := rfl
@[simp] theorem resetCsrs_tp (s : State) :
    (resetCsrs s).tp = State.reset.tp := rfl
@[simp] theorem resetCsrs_tlv (s : State) :
    (resetCsrs s).tlv = State.reset.tlv := rfl
@[simp] theorem resetCsrs_win (s : State) :
    (resetCsrs s).win = State.reset.win := rfl
@[simp] theorem resetCsrs_buf (s : State) :
    (resetCsrs s).buf = s.buf := rfl
@[simp] theorem resetCsrs_cc (s : State) :
    (resetCsrs s).cc = State.reset.cc := rfl
@[simp] theorem resetCsrs_svActive (s : State) :
    (resetCsrs s).svActive = State.reset.svActive := rfl
@[simp] theorem resetCsrs_sv (s : State) :
    (resetCsrs s).sv = State.reset.sv := rfl
@[simp] theorem resetCsrs_nowUs (s : State) :
    (resetCsrs s).nowUs = State.reset.nowUs := rfl
@[simp] theorem resetCsrs_tmNext (s : State) :
    (resetCsrs s).tmNext = State.reset.tmNext := rfl
@[simp] theorem resetCsrs_tm (s : State) :
    (resetCsrs s).tm = State.reset.tm := rfl
@[simp] theorem resetCsrs_trace (s : State) :
    (resetCsrs s).trace = s.trace := rfl
@[simp] theorem resetCsrs_result (s : State) :
    (resetCsrs s).result = s.result := rfl
@[simp] theorem resetCsrs_inputs (s : State) :
    (resetCsrs s).inputs = s.inputs := rfl

end Sys2Proof.Machine
end

