-- ==== Sys2Proof/Laws/Ops.lean ====
section
/-! SUPPORT. For each shared operation one lemma that says everything it can do; proofs cite these and unfold nothing. -/

namespace Sys2Proof.Machine

/-! Results. -/

theorem bind_ok {α β : Type} (x : Result α) (f : α → Result β) (b : β) :
    (x >>= f) = .ok b ↔ ∃ a, x = .ok a ∧ f a = .ok b := by
  cases x <;> simp [bind, Except.bind]

theorem bind_error {α β : Type} (x : Result α) (f : α → Result β) (e : Err) :
    (x >>= f) = .error e ↔ x = .error e ∨ ∃ a, x = .ok a ∧ f a = .error e := by
  cases x <;> simp [bind, Except.bind]

@[simp] theorem pure_eq_ok {α : Type} (a b : α) : ((pure a : Result α) = .ok b) ↔ a = b := by
  simp [pure, Except.pure]

@[simp] theorem pure_ne_error {α : Type} (a : α) (e : Err) : ((pure a : Result α) = .error e) ↔ False := by
  simp [pure, Except.pure]

@[simp] theorem ensure_ok (c : Bool) (e : Err) (u : Unit) : ensure c e = .ok u ↔ c = true := by
  cases c <;> simp [ensure]

@[simp] theorem ensure_error (c : Bool) (e e' : Err) : ensure c e = .error e' ↔ c = false ∧ e = e' := by
  cases c <;> simp [ensure]

/-! Integers (R11). -/

theorem fits64_iff (v : Int) : fits64 v = true ↔ -9223372036854775808 ≤ v ∧ v ≤ 9223372036854775807 := by
  simp [fits64]

/-- A register holds an integer that fits. -/
theorem raw64_toInt (v : Int) (h : fits64 v = true) : (raw64 v).toInt = v := by
  rw [fits64_iff] at h
  rw [raw64, BitVec.toInt_ofInt]
  exact Int.bmod_eq_of_le (by omega) (by omega)

/-- The value of a register fits, and is the register's. -/
theorem fits64_toInt (x : TimeInterval) : fits64 x.toInt = true := by
  rw [fits64_iff]
  have := BitVec.toInt_lt (x := x)
  have := BitVec.le_toInt (x := x)
  omega

@[simp] theorem raw64_of_toInt (x : TimeInterval) : raw64 x.toInt = x := BitVec.ofInt_toInt

theorem chk_ok (v : Int) (x : TimeInterval) : chk v = .ok x ↔ fits64 v = true ∧ x = raw64 v := by
  unfold chk
  cases fits64 v
  · simp
  · simpa using eq_comm

theorem chk_error (v : Int) (e : Err) : chk v = .error e ↔ fits64 v = false ∧ e = .ovf := by
  unfold chk
  cases fits64 v
  · simpa using eq_comm
  · simp

/-- What `chk` lets through keeps its value. -/
theorem chk_toInt (v : Int) (x : TimeInterval) (h : chk v = .ok x) : x.toInt = v := by
  obtain ⟨hf, rfl⟩ := (chk_ok v x).mp h
  exact raw64_toInt v hf

/-! Timestamps (R13). -/

theorem tsWf_iff (t : Timestamp) : tsWf t = true ↔ t.ns.toNat < 1000000000 := by
  simp [tsWf]

@[simp] theorem needWf_ok (t : Timestamp) (u : Unit) : needWf t = .ok u ↔ tsWf t = true := by
  simp [needWf]

@[simp] theorem needWf_error (t : Timestamp) (e : Err) : needWf t = .error e ↔ tsWf t = false ∧ .operand = e := by
  simp [needWf]

theorem tsUnits_nonneg (t : Timestamp) : 0 ≤ tsUnits t := Int.natCast_nonneg _

/-- A well-formed Timestamp lies below the limit. -/
theorem tsUnits_lt (t : Timestamp) (h : tsWf t = true) : tsUnits t < tsLimit := by
  rw [tsWf_iff] at h
  have h1 := t.secMsb.isLt
  have h2 := t.sec.isLt
  have h3 := t.frac.isLt
  simp only [tsUnits, tsSec, tsLimit]
  omega

/-- `ts_from_units` answers a well-formed Timestamp at the given position (R13). -/
theorem tsFromUnits_spec (u : Int) (h0 : 0 ≤ u) (h1 : u < tsLimit) :
    tsWf (tsFromUnits u) = true ∧ tsUnits (tsFromUnits u) = u := by
  obtain ⟨n, rfl⟩ := Int.eq_ofNat_of_zero_le h0
  simp only [tsLimit] at h1
  simp only [tsWf_iff, tsFromUnits, tsUnits, tsSec, Int.toNat_natCast, BitVec.toNat_ofNat]
  constructor <;> omega

/-- Two well-formed Timestamps at the same position are the same. -/
theorem tsUnits_injective (a b : Timestamp) (ha : tsWf a = true) (hb : tsWf b = true) (h : tsUnits a = tsUnits b) : a = b := by
  rw [tsWf_iff] at ha hb
  obtain ⟨am, as, an, af⟩ := a
  obtain ⟨bm, bs, bn, bf⟩ := b
  simp only [tsUnits, tsSec] at h ha hb
  have := am.isLt; have := as.isLt; have := af.isLt
  have := bm.isLt; have := bs.isLt; have := bf.isLt
  simp only [Timestamp.mk.injEq]
  refine ⟨?_, ?_, ?_, ?_⟩ <;> apply BitVec.eq_of_toNat_eq <;> omega

/-- `tsChk` answers the Timestamp at a position of the axis, and `E_OVF` off it. -/
theorem tsChk_ok (u : Int) (t : Timestamp) (h : tsChk u = .ok t) : 0 ≤ u ∧ u < tsLimit ∧ tsWf t = true ∧ tsUnits t = u := by
  unfold tsChk at h
  split at h
  · rename_i hu
    cases h
    exact ⟨hu.1, hu.2, tsFromUnits_spec u hu.1 hu.2⟩
  · cases h

theorem tsChk_error (u : Int) (e : Err) (h : tsChk u = .error e) : e = .ovf ∧ (u < 0 ∨ tsLimit ≤ u) := by
  unfold tsChk at h
  split at h
  · cases h
  · rename_i hu
    cases h
    exact ⟨rfl, by omega⟩

/-- The answer of the port is a point in time (R329). -/
theorem answerTime_wf (a : PortAnswer) : tsWf (answerTime a) = true := by
  rw [tsWf_iff]
  simp only [answerTime, BitVec.toNat_ofNat]
  have := a.ns.isLt
  omega

/-! The frame of a command (R130). -/

/-- A command always answers a next state: the copy, or the state with the error taken. -/
theorem command_next (body : Body) (s t : State) :
    command body s = .next t ↔
      (∃ u v, body s = .ok (u, v) ∧ t = complete u v) ∨ (∃ e, body s = .error e ∧ t = takeError e s) := by
  unfold command
  cases body s with
  | ok p =>
    obtain ⟨u, v⟩ := p
    constructor
    · intro h
      cases h
      exact .inl ⟨u, v, rfl, rfl⟩
    · rintro (⟨u', v', h, rfl⟩ | ⟨e, h, -⟩) <;> cases h
      rfl
  | error e =>
    constructor
    · intro h
      cases h
      exact .inr ⟨e, rfl, rfl⟩
    · rintro (⟨u', v', h, -⟩ | ⟨e, h, rfl⟩) <;> cases h
      rfl

theorem command_ok (body : Body) (s u : State) (v : Bool) (h : body s = .ok (u, v)) :
    command body s = .next (complete u v) := by
  simp [command, h]

theorem command_error (body : Body) (s : State) (e : Err) (h : body s = .error e) :
    command body s = .next (takeError e s) := by
  simp [command, h]

theorem command_exists (body : Body) (s : State) : ∃ t, command body s = .next t := by
  unfold command
  split <;> exact ⟨_, rfl⟩

theorem command_plain (f : State → State) (s : State) : command (plain f) s = .next (complete (f s) false) := rfl

theorem toTi_ok (d : TiReg) (f : State → Result TimeInterval) (s u : State) (v : Bool) :
    toTi d f s = .ok (u, v) ↔ ∃ x, f s = .ok x ∧ u = setTi d x s ∧ v = false := by
  simp only [toTi, bind_ok, pure_eq_ok, Prod.mk.injEq]
  constructor
  · rintro ⟨x, h, rfl, rfl⟩
    exact ⟨x, h, rfl, rfl⟩
  · rintro ⟨x, h, rfl, rfl⟩
    exact ⟨x, h, rfl, rfl⟩

theorem toTi_error (d : TiReg) (f : State → Result TimeInterval) (s : State) (e : Err) :
    toTi d f s = .error e ↔ f s = .error e := by
  simp only [toTi, bind_error, pure_ne_error, and_false, exists_false, or_false]

theorem checkedDiff_ok (a b : Timestamp) (v : Int) :
    checkedDiff a b = .ok v ↔ tsWf a = true ∧ tsWf b = true ∧ tsDiff a b = v := by
  simp only [checkedDiff, bind_ok, needWf_ok, pure_eq_ok, exists_and_left, exists_const]

theorem checkedDiff_error (a b : Timestamp) (e : Err) :
    checkedDiff a b = .error e ↔ (tsWf a = false ∨ tsWf b = false) ∧ .operand = e := by
  simp only [checkedDiff, bind_error, needWf_error, needWf_ok, pure_ne_error]
  cases tsWf a <;> cases tsWf b <;> simp

/-! The window (R74). -/

@[simp] theorem needWindow_ok (s : State) (off n : Nat) (u : Unit) : needWindow s off n = .ok u ↔ inWindow s.win off n = true := by
  simp [needWindow]

@[simp] theorem needWindow_error (s : State) (off n : Nat) (e : Err) :
    needWindow s off n = .error e ↔ inWindow s.win off n = false ∧ .bounds = e := by
  simp [needWindow]

theorem inWindow_iff (w : Window) (off n : Nat) :
    inWindow w off n = true ↔
      w.base.toNat ≤ w.limit.toNat ∧ w.limit.toNat ≤ 2048 ∧ w.base.toNat ≤ off ∧ off + n ≤ w.limit.toNat := by
  unfold inWindow bufBytes
  exact decide_eq_true_iff

@[simp] theorem needHeader_ok (s : State) (u : Unit) : needHeader s = .ok u ↔ s.win.hdrPacked = true := by
  simp [needHeader]

@[simp] theorem needHeader_error (s : State) (e : Err) : needHeader s = .error e ↔ s.win.hdrPacked = false ∧ .seq = e := by
  simp [needHeader]

/-! Servo contexts. -/

theorem otherCtx_ne (c : CtxId) : otherCtx c ≠ c := by
  revert c; decide

theorem otherCtx_otherCtx (c : CtxId) : otherCtx (otherCtx c) = c := by
  revert c; decide

theorem ctx_cases (c d : CtxId) : d = c ∨ d = otherCtx c := by
  revert c d; decide

theorem get_set_same {α : Type} {n : Nat} (v : Vector α n) (i : Fin n) (x : α) : (v.set i.val x)[i] = x := by
  simp

theorem get_set_ne {α : Type} {n : Nat} (v : Vector α n) (i j : Fin n) (x : α) (h : j ≠ i) : (v.set i.val x)[j] = v[j] := by
  have : i.val ≠ j.val := fun e => h (Fin.ext e.symm)
  simp [Vector.getElem_set_ne, this]

theorem setSt_same (c : CtxId) (st : ServoState) (s : State) : (setSt c st s).sv[c] = { s.sv[c] with st := st } :=
  get_set_same _ _ _

theorem setSt_ne (c d : CtxId) (st : ServoState) (s : State) (h : d ≠ c) : (setSt c st s).sv[d] = s.sv[d] :=
  get_set_ne _ _ _ _ h

theorem setFlt_same (c : CtxId) (f : FltId) (x : Filter) (s : State) :
    (setFlt c f x s).sv[c] = { s.sv[c] with flt := s.sv[c].flt.set f.val x } := get_set_same _ _ _

theorem setFlt_ne (c d : CtxId) (f : FltId) (x : Filter) (s : State) (h : d ≠ c) : (setFlt c f x s).sv[d] = s.sv[d] :=
  get_set_ne _ _ _ _ h

/-- The servo state registers, and the configuration, after a change of a filter. -/
theorem setFlt_st (c d : CtxId) (f : FltId) (x : Filter) (s : State) : (setFlt c f x s).sv[d].st = s.sv[d].st := by
  by_cases h : d = c
  · subst h; rw [setFlt_same]
  · rw [setFlt_ne _ _ _ _ _ h]

theorem setFlt_cfg (c d : CtxId) (f : FltId) (x : Filter) (s : State) : (setFlt c f x s).sv[d].cfg = s.sv[d].cfg := by
  by_cases h : d = c
  · subst h; rw [setFlt_same]
  · rw [setFlt_ne _ _ _ _ _ h]

theorem setSt_cfg (c d : CtxId) (st : ServoState) (s : State) : (setSt c st s).sv[d].cfg = s.sv[d].cfg := by
  by_cases h : d = c
  · subst h; rw [setSt_same]
  · rw [setSt_ne _ _ _ _ h]

theorem setSt_flt (c d : CtxId) (st : ServoState) (s : State) : (setSt c st s).sv[d].flt = s.sv[d].flt := by
  by_cases h : d = c
  · subst h; rw [setSt_same]
  · rw [setSt_ne _ _ _ _ h]

theorem setSt_st_same (c : CtxId) (st : ServoState) (s : State) : (setSt c st s).sv[c].st = st := by
  rw [setSt_same]

theorem setSt_st_ne (c d : CtxId) (st : ServoState) (s : State) (h : d ≠ c) : (setSt c st s).sv[d].st = s.sv[d].st := by
  rw [setSt_ne _ _ _ _ h]

/-- Resetting the filters of a context touches no servo state and no configuration. -/
theorem resetFilters_st (c d : CtxId) (s : State) : (resetFilters c s).sv[d].st = s.sv[d].st := by
  simp only [resetFilters, setFlt_st]

theorem resetFilters_cfg (c d : CtxId) (s : State) : (resetFilters c s).sv[d].cfg = s.sv[d].cfg := by
  simp only [resetFilters, setFlt_cfg]

/-- `mirror` (R291): the shadow set goes to the other context, the context itself stays. -/
theorem mirror_st_same (c : CtxId) (s : State) : (mirror c s).sv[c].st = s.sv[c].st :=
  setSt_st_ne _ _ _ _ (otherCtx_ne c).symm

theorem mirror_st_other (c : CtxId) (s : State) :
    (mirror c s).sv[otherCtx c].st = withShadow s.sv[c].st s.sv[otherCtx c].st := setSt_st_same _ _ _

theorem mirror_cfg (c d : CtxId) (s : State) : (mirror c s).sv[d].cfg = s.sv[d].cfg := setSt_cfg _ _ _ _

theorem mirror_flt (c d : CtxId) (s : State) : (mirror c s).sv[d].flt = s.sv[d].flt := setSt_flt _ _ _ _

/-- The clock state, the measurements and the classification are not in the shadow set. -/
theorem withShadow_clockState (a b : ServoState) : (withShadow a b).clockState = b.clockState := rfl

theorem mirror_clockState (c d : CtxId) (s : State) : (mirror c s).sv[d].st.clockState = s.sv[d].st.clockState := by
  rcases ctx_cases c d with rfl | rfl
  · rw [mirror_st_same]
  · rw [mirror_st_other, withShadow_clockState]

/-! Filters (R190 to R192). -/

/-- A filter step answers a value and the new filter, or takes `E_CFG` (period 0) or `E_OVF` (window sum). -/
theorem fltStep_ok (F G : Filter) (x : TimeInterval) (o : Option TimeInterval) :
    fltStep F x = .ok (G, o) ↔
      F.period ≠ 0 ∧ ((F.windowed = true ∧ winStep F x = .ok (G, o)) ∨ (F.windowed = false ∧ lpStep F x = (G, o))) := by
  simp only [fltStep, bind_ok, ensure_ok]
  cases hw : F.windowed <;> simp [pure, Except.pure]

theorem winStep_error (F : Filter) (x : TimeInterval) (e : Err) (h : winStep F x = .error e) : e = .ovf := by
  unfold winStep at h
  cases hk : F.k == 0 <;> simp only [hk, Bool.false_eq_true, ↓reduceIte] at h
  · rw [bind_error] at h
    rcases h with h | ⟨a, -, h⟩
    · exact ((chk_error _ _).mp h).2
    · split at h <;> simp at h
  · rw [bind_error] at h
    rcases h with h | ⟨a, -, h⟩
    · cases h
    · split at h <;> simp at h

theorem fltStep_error (F : Filter) (x : TimeInterval) (e : Err) (h : fltStep F x = .error e) :
    (e = .cfg ∧ F.period = 0) ∨ (e = .ovf ∧ F.windowed = true) := by
  simp only [fltStep, bind_error, ensure_error] at h
  rcases h with ⟨h, rfl⟩ | ⟨-, -, h⟩
  · exact .inl ⟨rfl, by simpa using h⟩
  · split at h
    · rename_i hw
      exact .inr ⟨winStep_error _ _ _ h, hw⟩
    · simp at h

/-- A filter step keeps the configuration of the filter. -/
theorem lpStep_config (F : Filter) (x : TimeInterval) :
    (lpStep F x).1.windowed = F.windowed ∧ (lpStep F x).1.period = F.period ∧ (lpStep F x).1.dist = F.dist := ⟨rfl, rfl, rfl⟩

theorem winStep_config (F G : Filter) (x : TimeInterval) (o : Option TimeInterval) (h : winStep F x = .ok (G, o)) :
    G.windowed = F.windowed ∧ G.period = F.period ∧ G.dist = F.dist := by
  unfold winStep at h
  cases hk : F.k == 0 <;> simp only [hk, Bool.false_eq_true, ↓reduceIte] at h <;> rw [bind_ok] at h <;> obtain ⟨a, -, h⟩ := h
    <;> split at h <;> simp only [pure_eq_ok, Prod.mk.injEq] at h <;> obtain ⟨rfl, -⟩ := h <;> exact ⟨rfl, rfl, rfl⟩

/-! Timers (R171, R178, R181). -/

/-- `arm` sets one timer record, or takes `E_OVF` when the deadline reaches 2^64. -/
theorem arm_ok (i : TmrId) (ticks : Nat) (rep : Bool) (s u : State) :
    arm i ticks rep s = .ok u ↔
      armDeadline s ticks < 2 ^ 64 ∧
        u = setTimer i (armedTimer s.tm[i] ticks (ticks * tickUs s) (armDeadline s ticks) rep) s := by
  unfold arm
  split
  · rename_i h
    simp only [Except.ok.injEq, h, true_and]
    exact eq_comm
  · rename_i h
    simp only [reduceCtorEq, h, false_and]

theorem arm_error (i : TmrId) (ticks : Nat) (rep : Bool) (s : State) (e : Err) :
    arm i ticks rep s = .error e ↔ 2 ^ 64 ≤ armDeadline s ticks ∧ e = .ovf := by
  unfold arm
  split
  · simp only [reduceCtorEq, false_iff, not_and]
    omega
  · simp only [Except.error.injEq]
    constructor
    · rintro rfl
      exact ⟨by omega, rfl⟩
    · rintro ⟨-, rfl⟩
      rfl

/-- `fire` raises event bits and may change a clock state; everything else stays. -/
theorem fire_frame (i : TmrId) (s : State) :
    fire i s = { s with evt := (fire i s).evt, sv := (fire i s).sv } := by
  unfold fire
  split
  · simp only [settleExpire]
    split
    · rfl
    · split <;> rfl
  · rfl

/-- The record of an expired timer (R178): it has fired once more and is one-shot and removed, or periodic and moved into the
future by whole periods. -/
theorem expiredTimer_ok (t u : Timer) (now : Nat) (h : expiredTimer t now = .ok u) :
    u.fireCnt = t.fireCnt + 1 ∧ u.init = t.init ∧ u.periodic = t.periodic ∧ u.inst = t.inst ∧ u.periodTicks = t.periodTicks
      ∧ u.periodUs = t.periodUs ∧ u.stopPending = t.stopPending
      ∧ (t.periodic = false → u.armed = false ∧ u.deadlineUs = t.deadlineUs ∧ u.lossCnt = t.lossCnt)
      ∧ (t.periodic = true → t.periodUs ≠ 0 ∧ u.armed = t.armed
          ∧ u.deadlineUs.toNat = t.deadlineUs.toNat + periodsDue t.deadlineUs.toNat t.periodUs.toNat now * t.periodUs.toNat
          ∧ u.lossCnt = t.lossCnt + BitVec.ofNat 32 (periodsDue t.deadlineUs.toNat t.periodUs.toNat now - 1)) := by
  unfold expiredTimer at h
  by_cases hp : t.periodic = true
  · rw [if_pos hp] at h
    simp only [bind_ok, ensure_ok, pure_eq_ok] at h
    obtain ⟨-, h0, -, hd, rfl⟩ := h
    simp only [decide_eq_true_eq] at hd
    refine ⟨rfl, rfl, rfl, rfl, rfl, rfl, rfl, by simp [hp], fun _ => ⟨by simpa using h0, rfl, ?_, rfl⟩⟩
    simp only [BitVec.toNat_ofNat]
    exact Nat.mod_eq_of_lt hd
  · rw [if_neg hp] at h
    simp only [pure_eq_ok] at h
    subst h
    exact ⟨rfl, rfl, rfl, rfl, rfl, rfl, rfl, fun _ => ⟨rfl, rfl, rfl⟩, fun h => absurd h hp⟩

theorem expiredTimer_error (t : Timer) (now : Nat) (e : Err) (h : expiredTimer t now = .error e) :
    t.periodic = true ∧ ((e = .cfg ∧ t.periodUs = 0) ∨ e = .ovf) := by
  unfold expiredTimer at h
  split at h
  · rename_i hp
    simp only [bind_error, ensure_error, pure_ne_error] at h
    rcases h with ⟨h, rfl⟩ | ⟨-, -, ⟨-, rfl⟩ | ⟨-, -, h⟩⟩
    · exact ⟨hp, .inl ⟨rfl, by simpa using h⟩⟩
    · exact ⟨hp, .inr rfl⟩
    · exact h.elim
  · simp at h

/-- One timer's part of a tick, by cases. -/
theorem tickOne_ok (now : Nat) (s u : State) (f g : Bool) (i : TmrId) (h : tickOne now (s, f) i = .ok (u, g)) :
    (s.tm[i].armed = true ∧ s.tm[i].stopPending = true ∧ u = disarm i s ∧ g = f)
      ∨ (s.tm[i].armed = true ∧ s.tm[i].stopPending = false ∧ s.tm[i].deadlineUs.toNat ≤ now ∧ g = true
          ∧ ∃ t, expiredTimer s.tm[i] now = .ok t ∧ u = fire i (setTimer i t s))
      ∨ ((s.tm[i].armed = false ∨ s.tm[i].stopPending = false ∧ now < s.tm[i].deadlineUs.toNat) ∧ u = s ∧ g = f) := by
  simp only [tickOne] at h
  cases ha : s.tm[i].armed
  · simp only [ha, Bool.false_and, Bool.false_eq_true, ↓reduceIte, Except.ok.injEq, Prod.mk.injEq] at h
    exact .inr (.inr ⟨.inl rfl, h.1.symm, h.2.symm⟩)
  · cases hs : s.tm[i].stopPending
    · simp only [ha, hs, Bool.true_and, Bool.false_eq_true, ↓reduceIte, decide_eq_true_eq] at h
      split at h
      · rename_i hd
        simp only [bind_ok, pure_eq_ok, Prod.mk.injEq] at h
        obtain ⟨t, ht, rfl, rfl⟩ := h
        exact .inr (.inl ⟨rfl, rfl, hd, rfl, t, ht, rfl⟩)
      · rename_i hd
        simp only [Except.ok.injEq, Prod.mk.injEq] at h
        exact .inr (.inr ⟨.inr ⟨rfl, Nat.lt_of_not_le hd⟩, h.1.symm, h.2.symm⟩)
    · simp only [ha, hs, Bool.true_and, ↓reduceIte, Except.ok.injEq, Prod.mk.injEq] at h
      exact .inl ⟨rfl, rfl, h.1.symm, h.2.symm⟩

/-! The step path, an evaluation, the holdover (R276, R281, R292). -/

/-- The call of the step path. -/
theorem stepCall_ok (x : Context) (raw : Int) (t1 : Timestamp) (corr : Int) (c : Call) (h : stepCall x raw t1 corr = .ok c) :
    (fits64 raw = true ∧ c = .setTimeDelta (magnitude raw) x.cfg.domain (decide (0 < raw)))
      ∨ (fits64 raw = false ∧ ∃ t, tsChk (tsUnits t1 + corr + knownDelay x.st) = .ok t ∧ c = .setTime t x.cfg.domain) := by
  unfold stepCall at h
  split at h
  · rename_i hf
    cases h
    exact .inl ⟨hf, rfl⟩
  · rename_i hf
    simp only [bind_ok, pure_eq_ok] at h
    obtain ⟨t, ht, rfl⟩ := h
    exact .inr ⟨by simpa using hf, t, ht, rfl⟩

theorem stepCall_error (x : Context) (raw : Int) (t1 : Timestamp) (corr : Int) (e : Err) (h : stepCall x raw t1 corr = .error e) :
    e = .ovf := by
  unfold stepCall at h
  split at h
  · cases h
  · simp only [bind_error, pure_ne_error, and_false, exists_false, or_false] at h
    exact (tsChk_error _ _ h).1

/-- The step path: one call, the servo state cleared, the filters reset, the settle timer armed, two events, the mirror. -/
theorem doStep_ok (c : CtxId) (raw : Int) (t1 : Timestamp) (corr : Int) (s u : State) (h : doStep c raw t1 corr s = .ok u) :
    ∃ call a, stepCall s.sv[c] raw t1 corr = .ok call
      ∧ arm (settleTimer c) s.sv[c].cfg.settleTicks.toNat false
          (resetFilters c (setSt c (steppedState s.sv[c].st) (emit call s))) = .ok a
      ∧ u = mirror c (event (evStepped ||| evStateChg) a) := by
  simp only [doStep, bind_ok, pure_eq_ok] at h
  obtain ⟨call, hc, a, ha, rfl⟩ := h
  refine ⟨call, a, hc, ?_, rfl⟩
  rw [resetFilters_cfg, setSt_cfg] at ha
  exact ha

theorem doStep_error (c : CtxId) (raw : Int) (t1 : Timestamp) (corr : Int) (s : State) (e : Err)
    (h : doStep c raw t1 corr s = .error e) : e = .ovf := by
  simp only [doStep, bind_error, pure_ne_error, and_false, exists_false, or_false] at h
  rcases h with h | ⟨_, -, h⟩
  · exact stepCall_error _ _ _ _ _ h
  · exact ((arm_error _ _ _ _ _).mp h).2

/-- An evaluation: the time since the previous one, the terms, the ratio, then the calls, the registers, the events, the mirror. -/
theorem servoEval_ok (c : CtxId) (off : TimeInterval) (now : Timestamp) (s u : State) (h : servoEval c off now s = .ok u) :
    ∃ dt p ratio, evalDelta s.sv[c].st now = .ok dt
      ∧ pidTerms s.sv[c].cfg s.sv[c].st off.toInt dt.toInt = .ok p
      ∧ chk (-ppt p.adj.toInt) = .ok ratio
      ∧ ∃ st, st = evaluatedState s.sv[c].cfg s.sv[c].st off now dt p (outputCalls s.sv[c].cfg off.toInt ratio).2
      ∧ u = mirror c (eventIf (st.clockState != s.sv[c].st.clockState) evStateChg
          (eventIf (st.holdoverOk && !s.sv[c].st.holdoverOk) evHoldoverRdy
            (setSt c st (emitAll (outputCalls s.sv[c].cfg off.toInt ratio).1 s)))) := by
  simp only [servoEval, bind_ok, pure_eq_ok] at h
  obtain ⟨dt, h1, p, h2, r, h3, rfl⟩ := h
  exact ⟨dt, p, r, h1, h2, h3, _, rfl, rfl⟩

theorem evalDelta_error (st : ServoState) (now : Timestamp) (e : Err) (h : evalDelta st now = .error e) :
    st.havePrev = true ∧ (e = .operand ∨ e = .ovf) := by
  unfold evalDelta at h
  split at h
  · rename_i hp
    simp only [bind_error, ensure_error, chk_error] at h
    rcases h with ⟨-, rfl⟩ | ⟨-, -, -, rfl⟩
    · exact ⟨hp, .inl rfl⟩
    · exact ⟨hp, .inr rfl⟩
  · cases h

theorem diffTerm_error (g : ServoConfig) (st : ServoState) (off dt : Int) (e : Err) (h : diffTerm g st off dt = .error e) :
    e = .ovf := by
  unfold diffTerm at h
  split at h
  · exact ((chk_error _ _).mp h).2
  · cases h

theorem pidTerms_error (g : ServoConfig) (st : ServoState) (off dt : Int) (e : Err) (h : pidTerms g st off dt = .error e) :
    e = .ovf := by
  unfold pidTerms at h
  cases hi : usesIntegral g st.clockState <;> simp only [hi, Bool.false_eq_true, ↓reduceIte] at h <;>
    simp only [bind_error, pure_ne_error, and_false, exists_false, or_false] at h
  · rcases h with h | ⟨_, -, h | ⟨_, -, h⟩⟩
    · cases h
    · exact diffTerm_error _ _ _ _ _ h
    · exact ((chk_error _ _).mp h).2
  · rcases h with h | ⟨_, -, h | ⟨_, -, h⟩⟩
    · exact ((chk_error _ _).mp h).2
    · exact diffTerm_error _ _ _ _ _ h
    · exact ((chk_error _ _).mp h).2

theorem servoEval_error (c : CtxId) (off : TimeInterval) (now : Timestamp) (s : State) (e : Err)
    (h : servoEval c off now s = .error e) : e = .operand ∨ e = .ovf := by
  simp only [servoEval, bind_error, pure_ne_error, and_false, exists_false, or_false] at h
  rcases h with h | ⟨_, -, h | ⟨_, -, h⟩⟩
  · exact (evalDelta_error _ _ _ h).2
  · exact .inr (pidTerms_error _ _ _ _ _ h)
  · exact .inr ((chk_error _ _).mp h).2

/-- The holdover frequency: re-applied when `holdover_ok`, otherwise nothing happens. -/
theorem applyHoldover_ok (c : CtxId) (s u : State) (h : applyHoldover c s = .ok u) :
    (s.sv[c].st.holdoverOk = false ∧ u = s)
      ∨ (s.sv[c].st.holdoverOk = true ∧ ∃ r, chk (-ppt s.sv[c].st.adjAvg.toInt) = .ok r
          ∧ u = event evHoldoverUsed (setSt c { s.sv[c].st with ratio := r } (emit (.setFrequencyRatio r s.sv[c].cfg.domain) s))) := by
  simp only [applyHoldover] at h
  by_cases hh : s.sv[c].st.holdoverOk = true
  · rw [if_pos hh] at h
    simp only [bind_ok, pure_eq_ok] at h
    obtain ⟨r, hr, rfl⟩ := h
    exact .inr ⟨hh, r, hr, rfl⟩
  · rw [if_neg hh] at h
    cases h
    exact .inl ⟨by simpa using hh, rfl⟩

theorem applyHoldover_error (c : CtxId) (s : State) (e : Err) (h : applyHoldover c s = .error e) : e = .ovf := by
  simp only [applyHoldover] at h
  split at h
  · simp only [bind_error, chk_error, pure_ne_error, and_false, exists_false, or_false] at h
    exact h.2
  · cases h

/-- The checks of R262. -/
@[simp] theorem cfgState_ok (x : Context) (u : Unit) : cfgState x = .ok u ↔ x.st.clockState.toNat ≤ 8 := by
  simp [cfgState]

@[simp] theorem cfgState_error (x : Context) (e : Err) : cfgState x = .error e ↔ 8 < x.st.clockState.toNat ∧ .cfg = e := by
  simp [cfgState]

theorem cfgPid_ok (x : Context) (u : Unit) :
    cfgPid x = .ok u ↔ x.st.clockState.toNat ≤ 8 ∧ (x.cfg.pEn = true → x.cfg.ap ≠ 0) ∧ (x.cfg.iEn = true → x.cfg.ai ≠ 0)
      ∧ (x.cfg.dEn = true → x.cfg.ad ≠ 0) ∧ x.cfg.hoW ≠ 0 := by
  simp only [cfgPid, bind_ok, cfgState_ok, ensure_ok, exists_and_left]
  cases x.cfg.pEn <;> cases x.cfg.iEn <;> cases x.cfg.dEn <;> simp [and_assoc]

theorem cfgPid_error (x : Context) (e : Err) (h : cfgPid x = .error e) : e = .cfg := by
  simp only [cfgPid, bind_error, cfgState_error, ensure_error] at h
  rcases h with ⟨-, rfl⟩ | ⟨-, -, -, rfl⟩ <;> rfl

@[simp] theorem needActive_ok (c : CtxId) (s : State) (u : Unit) : needActive c s = .ok u ↔ c = s.svActive := by
  simp [needActive]

@[simp] theorem needActive_error (c : CtxId) (s : State) (e : Err) : needActive c s = .error e ↔ c ≠ s.svActive ∧ .inactive = e := by
  simp [needActive]

@[simp] theorem lifetimeCheck_ok (x : Context) (u : Unit) :
    lifetimeCheck x = .ok u ↔ 0 < x.cfg.validLft.toInt ∧ x.cfg.prefLft.toInt ≤ x.cfg.validLft.toInt := by
  simp [lifetimeCheck]

theorem lifetimeCheck_error (x : Context) (e : Err) (h : lifetimeCheck x = .error e) : e = .discard := by
  simp only [lifetimeCheck, ensure_error] at h
  exact h.2.symm

@[simp] theorem monoCheck_ok (x : Context) (t1 t2 : Timestamp) (u : Unit) :
    monoCheck x t1 t2 = .ok u ↔
      (x.st.haveSample = true → tsUnits x.st.prevT1 < tsUnits t1 ∧ tsUnits x.st.prevT2 < tsUnits t2) := by
  simp only [monoCheck, ensure_ok, decide_eq_true_eq]

theorem monoCheck_error (x : Context) (t1 t2 : Timestamp) (e : Err) (h : monoCheck x t1 t2 = .error e) : e = .discard := by
  simp only [monoCheck, ensure_error] at h
  exact h.2.symm

end Sys2Proof.Machine
end

