-- ==== Sys2Proof/Laws/Ends.lean ====
section
/-! SUPPORT. How the words of Safety.lean follow from what a command's pseudocode answers, and how they meet the model's primitives. -/

namespace Sys2Proof.Machine

/-- A pseudocode that does not raise completes its command. -/
theorem completes_of_ok {i : Instr} {body : Body} {s t : State} {v : Bool} (hi : exec i s = command body s)
    (hb : body s = .ok (t, v)) (hc : t.cmdCnt = s.cmdCnt) : Completes i v s t := by
  unfold Completes
  rw [hi, command_ok body s t v hb]
  simp only [complete, statusOk, hc]

/-- A pseudocode that raises ends its command with the error's code. -/
theorem raises_of_error {i : Instr} {body : Body} {s : State} {e : Err} (hi : exec i s = command body s)
    (hb : body s = .error e) : Raises i (errCode e) s := by
  unfold Raises
  rw [hi, command_error body s e hb]
  rfl

theorem completes_plain {i : Instr} {f : State → State} {s : State} (hi : exec i s = command (plain f) s)
    (hc : (f s).cmdCnt = s.cmdCnt) : Completes i false s (f s) :=
  completes_of_ok hi rfl hc

/-- A command that raises does not complete: the two next states differ in `STATUS.OK`. -/
theorem not_completes_of_raises {i : Instr} {code : BitVec 8} {s t : State} {v : Bool} (hr : Raises i code s)
    (hc : Completes i v s t) : False := by
  unfold Raises at hr
  unfold Completes at hc
  rw [hr] at hc
  simp only [Host.Outcome.next.injEq] at hc
  have h := congrArg (fun x : State => x.status.ok) hc
  simp at h

/-- The spec's words for a 64-bit value, a point in time, a position and the window are the model's checks. -/
theorem fits_iff (v : Int) : Fits v ↔ fits64 v = true := (fits64_iff v).symm

theorem not_fits_iff (v : Int) : ¬ Fits v ↔ fits64 v = false := by
  rw [fits_iff, Bool.not_eq_true]

theorem wellFormed_iff (t : Timestamp) : WellFormed t ↔ tsWf t = true := (tsWf_iff t).symm

theorem not_wellFormed_iff (t : Timestamp) : ¬ WellFormed t ↔ tsWf t = false := by
  rw [wellFormed_iff, Bool.not_eq_true]

theorem position_eq (t : Timestamp) : position t = tsUnits t := by
  simp only [position, tsUnits, tsSec]
  push_cast
  ring

theorem onAxis_iff (u : Int) : OnAxis u ↔ 0 ≤ u ∧ u < tsLimit := by
  simp only [OnAxis, tsLimit]
  norm_num

theorem inWindow_prop (s : State) (off n : Nat) : InWindow s off n ↔ inWindow s.win off n = true := (inWindow_iff s.win off n).symm

theorem not_inWindow_prop (s : State) (off n : Nat) : ¬ InWindow s off n ↔ inWindow s.win off n = false := by
  rw [inWindow_prop, Bool.not_eq_true]

/-- `ti[d] <- chk(v)` at the end of a command. -/
theorem checksInto_of_toTi {i : Instr} {d : TiReg} {f : State → Result TimeInterval} {s : State} {v : Int}
    (hi : exec i s = command (toTi d f) s) (hf : f s = chk v) : ChecksInto i d v s := by
  constructor
  · intro h
    refine ⟨raw64 v, raw64_toInt v ((fits_iff v).mp h), completes_of_ok hi ?_ rfl⟩
    rw [toTi_ok]
    exact ⟨_, hf.trans ((chk_ok _ _).mpr ⟨(fits_iff v).mp h, rfl⟩), rfl, rfl⟩
  · intro h
    refine raises_of_error hi (e := .ovf) ?_
    rw [toTi_error, hf, chk_error]
    exact ⟨(not_fits_iff v).mp h, rfl⟩

/-- The least multiple of `TICK_US` that is at least `v` is what `roundup_tick` computes (R171). -/
theorem roundedUp_roundupTick (s : State) (v : Nat) : RoundedUp s v (roundupTick (tickUs s) v) := by
  have h1 : 0 < tickUs s := Nat.succ_pos _
  have hd := Nat.div_add_mod (v + (tickUs s - 1)) (tickUs s)
  have hm := Nat.mod_lt (v + (tickUs s - 1)) h1
  refine ⟨⟨_, rfl⟩, ?_, ?_⟩
  · unfold roundupTick
    rw [Nat.mul_comm]
    omega
  · intro k hk
    unfold roundupTick
    refine Nat.mul_le_mul_right _ ?_
    rw [Nat.div_le_iff_le_mul_add_pred h1, Nat.mul_comm]
    omega

end Sys2Proof.Machine
end

