-- ==== Sys2Proof/Laws/Filter.lean ====
section
/-! SUPPORT. One sample through one filter, in the words of Safety.lean: the step fails exactly as R190 and R192 say, and otherwise does
what R191 and R192 say. -/

namespace Sys2Proof.Machine

theorem minTi_toInt (a b : TimeInterval) : (minTi a b).toInt = min a.toInt b.toInt := by
  unfold minTi
  split <;> omega

theorem maxTi_toInt (a b : TimeInterval) : (maxTi a b).toInt = max a.toInt b.toInt := by
  unfold maxTi
  split <;> omega

/-- A quotient rounded toward zero is no larger than what is divided. -/
theorem natAbs_tdiv_le (v n : Int) : (v.tdiv n).natAbs ≤ v.natAbs := by
  rw [Int.natAbs_tdiv]
  exact Nat.div_le_self _ _

theorem sign_tdiv (v : Int) (n : Nat) : (0 ≤ v → 0 ≤ v.tdiv n) ∧ (v ≤ 0 → v.tdiv n ≤ 0) := by
  refine ⟨fun h => Int.tdiv_nonneg h (Int.natCast_nonneg n), fun h => ?_⟩
  have := Int.tdiv_nonneg (a := -v) (b := (n : Int)) (by omega) (Int.natCast_nonneg n)
  rw [Int.neg_tdiv] at this
  omega

/-- A quotient by a natural number fits where the dividend does. -/
theorem fits_tdiv (v : Int) (n : Nat) (h : Fits v) : Fits (v.tdiv n) := by
  unfold Fits at *
  have h1 := natAbs_tdiv_le v n
  obtain ⟨h2, h3⟩ := sign_tdiv v n
  rcases Int.le_total 0 v with h4 | h4
  · have := h2 h4; omega
  · have := h3 h4; omega

theorem fits_toInt (x : TimeInterval) : Fits x.toInt := (fits_iff _).mpr (fits64_toInt x)

theorem raw64_toInt_of_fits (v : Int) (h : Fits v) : (raw64 v).toInt = v := raw64_toInt v ((fits_iff v).mp h)

/-- A weighted mean, rounded toward zero, lies between its two values. -/
theorem mean_between (k : Nat) (lo hi a b : Int) (hk : 1 ≤ k) (ha : lo ≤ a ∧ a ≤ hi) (hb : lo ≤ b ∧ b ≤ hi) :
    lo ≤ (((k : Int) - 1) * a + b).tdiv k ∧ (((k : Int) - 1) * a + b).tdiv k ≤ hi := by
  have h1 : (k : Int) * lo ≤ ((k : Int) - 1) * a + b := by nlinarith
  have h2 : ((k : Int) - 1) * a + b ≤ (k : Int) * hi := by nlinarith
  have hk' : (0 : Int) < k := by omega
  generalize ((k : Int) - 1) * a + b = v at h1 h2
  have h3 := Int.tmod_add_mul_tdiv v k
  have h4 := Int.tmod_lt_of_pos v hk'
  rcases Int.le_total 0 v with h5 | h5
  · have h6 := Int.tmod_nonneg (k : Int) h5
    constructor <;> by_contra hc <;> push Not at hc <;> nlinarith
  · have h6 : v.tmod k ≤ 0 := by
      have := Int.tmod_nonneg (a := -v) (k : Int) (by omega)
      rw [Int.neg_tmod] at this
      omega
    have h7 : -(k : Int) < v.tmod k := by
      have := Int.tmod_lt_of_pos (-v) hk'
      rw [Int.neg_tmod] at this
      omega
    constructor <;> by_contra hc <;> push Not at hc <;> nlinarith

/-- The windowed filter overflows exactly when its sum does (R192). -/
theorem winStep_ovf (F : Filter) (x : TimeInterval) (hk : F.k ≠ 0) (h : ¬ Fits (F.sum.toInt + x.toInt)) : winStep F x = .error .ovf := by
  unfold winStep
  have hk : (F.k == 0) = false := by simpa using hk
  simp only [hk, Bool.false_eq_true, ↓reduceIte]
  rw [bind_error]
  exact .inl ((chk_error _ _).mpr ⟨(not_fits_iff _).mp h, rfl⟩)

theorem fltStep_cfg (F : Filter) (x : TimeInterval) (h : F.period = 0) : fltStep F x = .error .cfg := by
  unfold fltStep
  rw [bind_error]
  left
  simp [h]

theorem fltStep_ovf (F : Filter) (x : TimeInterval) (hp : F.period ≠ 0) (h : FilterOverflows F x) : fltStep F x = .error .ovf := by
  obtain ⟨hw, hk, hf⟩ := h
  unfold fltStep
  rw [bind_error]
  right
  exact ⟨(), (ensure_ok _ _ _).mpr (bne_iff_ne.mpr hp), by simp [hw, winStep_ovf F x hk hf]⟩

/-- A windowed step (R192). -/
theorem winStep_steps (F : Filter) (x : TimeInterval) (hw : F.windowed = true) (h : ¬ FilterOverflows F x) :
    ∃ G o, winStep F x = .ok (G, o) ∧ FilterSteps F x G o := by
  simp only [FilterSteps, if_pos hw]
  by_cases hk : F.k = 0
  · have hk' : (F.k == 0) = true := by simpa using hk
    unfold winStep
    simp only [hk', if_true]
    by_cases hp : F.period.toNat ≤ F.k.toNat + 1
    · refine ⟨_, _, by rw [bind_ok]; exact ⟨_, rfl, by rw [if_pos hp]; rfl⟩, x, x, x, by rw [if_pos hk], by rw [if_pos hk], by rw [if_pos hk], ?_⟩
      rw [if_pos hp]
      refine ⟨_, ?_, rfl, rfl⟩
      split
      · exact raw64_toInt_of_fits _ (by simpa [divT] using fits_tdiv x.toInt (F.k.toNat + 1) (fits_toInt x))
      · rfl
    · refine ⟨_, _, by rw [bind_ok]; exact ⟨_, rfl, by rw [if_neg hp]; rfl⟩, x, x, x, by rw [if_pos hk], by rw [if_pos hk], by rw [if_pos hk], ?_⟩
      rw [if_neg hp]
      rw [hk]
      exact ⟨rfl, rfl⟩
  · have hk' : (F.k == 0) = false := by simpa using hk
    have hf : Fits (F.sum.toInt + x.toInt) := by
      by_contra hc
      exact h ⟨hw, hk, hc⟩
    have hs : chk (F.sum.toInt + x.toInt) = .ok (raw64 (F.sum.toInt + x.toInt)) := (chk_ok _ _).mpr ⟨(fits_iff _).mp hf, rfl⟩
    have ht := raw64_toInt_of_fits _ hf
    unfold winStep
    simp only [hk', Bool.false_eq_true, if_false]
    by_cases hp : F.period.toNat ≤ F.k.toNat + 1
    · refine ⟨_, _, by rw [bind_ok]; exact ⟨_, hs, by rw [if_pos hp]; rfl⟩, minTi F.min x, maxTi F.max x, raw64 (F.sum.toInt + x.toInt), by rw [if_neg hk, minTi_toInt],
        by rw [if_neg hk, maxTi_toInt], by rw [if_neg hk, ht], ?_⟩
      rw [if_pos hp]
      refine ⟨_, ?_, rfl, rfl⟩
      split
      · exact raw64_toInt_of_fits _ (by simpa [divT] using fits_tdiv (raw64 (F.sum.toInt + x.toInt)).toInt (F.k.toNat + 1) (fits_toInt _))
      · rfl
    · refine ⟨_, _, by rw [bind_ok]; exact ⟨_, hs, by rw [if_neg hp]; rfl⟩, minTi F.min x, maxTi F.max x, raw64 (F.sum.toInt + x.toInt), by rw [if_neg hk, minTi_toInt],
        by rw [if_neg hk, maxTi_toInt], by rw [if_neg hk, ht], ?_⟩
      rw [if_neg hp]
      refine ⟨?_, rfl⟩
      have : F.k.toNat + 1 < 65536 := by have := F.period.isLt; omega
      congr 1

/-- A lowpass step (R191): it always emits. -/
theorem lpStep_steps (F : Filter) (x : TimeInterval) (hw : F.windowed = false) (hp : F.period ≠ 0) :
    ∃ y, (lpStep F x).2 = some y ∧ FilterSteps F x (lpStep F x).1 (some y) := by
  have hp' : 1 ≤ F.period.toNat := by
    rcases Nat.eq_zero_or_pos F.period.toNat with h | h
    · exact absurd (BitVec.eq_of_toNat_eq h) hp
    · exact h
  refine ⟨_, rfl, ?_⟩
  simp only [FilterSteps, if_neg (Bool.eq_false_iff.mp hw)]
  refine ⟨lowpassDivisor F.k.toNat F.period.toNat, raw64 (lowpassValue (lowpassDivisor F.k.toNat F.period.toNat) F.y.toInt x.toInt), rfl, ?_, rfl, rfl⟩
  have hd : 1 ≤ lowpassDivisor F.k.toNat F.period.toNat := by unfold lowpassDivisor; split <;> omega
  refine raw64_toInt_of_fits _ ?_
  exact mean_between _ _ _ _ _ hd (fits_toInt F.y) (fits_toInt x)

/-- A step of a filter that is configured and does not overflow. -/
theorem fltStep_steps (F : Filter) (x : TimeInterval) (hp : F.period ≠ 0) (h : ¬ FilterOverflows F x) :
    ∃ G o, fltStep F x = .ok (G, o) ∧ FilterSteps F x G o := by
  cases hw : F.windowed with
  | true =>
    obtain ⟨G, o, h1, h2⟩ := winStep_steps F x hw h
    exact ⟨G, o, (fltStep_ok _ _ _ _).mpr ⟨hp, .inl ⟨hw, h1⟩⟩, h2⟩
  | false =>
    obtain ⟨y, h1, h2⟩ := lpStep_steps F x hw hp
    exact ⟨_, _, (fltStep_ok _ _ _ _).mpr ⟨hp, .inr ⟨hw, by rw [← h1]⟩⟩, h2⟩

end Sys2Proof.Machine
end

