-- ==== Sys2Proof/Laws/Controller.lean ====
section
/-! SUPPORT. One evaluation of the controller in the words of Safety.lean: when it raises, and the state registers, calls and events it
leaves otherwise (R281 to R287). -/

namespace Sys2Proof.Machine

theorem absI_eq (v : Int) : absI v = |v| := by
  simp [absI]

theorem divT_fits (v : Int) (n : Nat) (h : Fits v) : (raw64 (divT v n)).toInt = v.tdiv n := raw64_toInt_of_fits _ (fits_tdiv v n h)

theorem chk_of_fits (v : Int) (h : Fits v) : chk v = .ok (raw64 v) := (chk_ok _ _).mpr ⟨(fits_iff v).mp h, rfl⟩

theorem chk_of_not_fits (v : Int) (h : ¬ Fits v) : chk v = .error .ovf := (chk_error _ _).mpr ⟨(not_fits_iff v).mp h, rfl⟩

theorem tsDiff_eq (a b : Timestamp) : tsDiff a b = position a - position b := by
  rw [tsDiff, position_eq, position_eq]

/-! The checks and the sample of the servo commands (R261, R262, R265, R269, R270). -/

theorem settling_iff (x : Context) : settling x.st.clockState = true ↔ Settling x := by
  simp [settling, Settling, csFSettling, csPSettling]

theorem not_settling_iff (x : Context) : settling x.st.clockState = false ↔ ¬ Settling x := by
  rw [← settling_iff, Bool.not_eq_true]

theorem cfgState_of_legal (x : Context) (h : StateLegal x) : cfgState x = .ok () := (cfgState_ok x ()).mpr h

theorem cfgState_of_reserved (x : Context) (h : ¬ StateLegal x) : cfgState x = .error .cfg :=
  (cfgState_error x _).mpr ⟨Nat.lt_of_not_le h, rfl⟩

theorem pidConfigured_iff (x : Context) : PidConfigured x ↔ cfgPid x = .ok () := by
  rw [cfgPid_ok]
  unfold PidConfigured StateLegal
  tauto

theorem cfgPid_of_not (x : Context) (h : ¬ PidConfigured x) : cfgPid x = .error .cfg := by
  cases hc : cfgPid x with
  | ok _ => exact absurd ((pidConfigured_iff x).mpr hc) h
  | error e => rw [cfgPid_error x e hc]

theorem lifetimes_iff (x : Context) : LifetimesValid x ↔ lifetimeCheck x = .ok () := (lifetimeCheck_ok x ()).symm

theorem lifetimeCheck_of_not (x : Context) (h : ¬ LifetimesValid x) : lifetimeCheck x = .error .discard := by
  cases hc : lifetimeCheck x with
  | ok _ => exact absurd ((lifetimes_iff x).mpr hc) h
  | error e => rw [lifetimeCheck_error x e hc]

theorem monotonic_iff (x : Context) (t1 t2 : Timestamp) : Monotonic x t1 t2 ↔ monoCheck x t1 t2 = .ok () := by
  rw [monoCheck_ok]
  simp only [Monotonic, position_eq]

theorem monoCheck_of_not (x : Context) (t1 t2 : Timestamp) (h : ¬ Monotonic x t1 t2) : monoCheck x t1 t2 = .error .discard := by
  cases hc : monoCheck x t1 t2 with
  | ok _ => exact absurd ((monotonic_iff x t1 t2).mpr hc) h
  | error e => rw [monoCheck_error x t1 t2 e hc]

theorem oneWay_eq (a b : Timestamp) (x : TimeInterval) : oneWay a b x.toInt = delayOf a b x := by
  rw [oneWay, tsDiff_eq]
  rfl

theorem stepTest_iff (x : Context) (m2s : Int) : stepTest x m2s (rawOffset x m2s) = true ↔ StepsClock x m2s := by
  simp only [stepTest, StepsClock, absI_eq, fits_iff, csFreeRun, Bool.or_eq_true, Bool.and_eq_true, Bool.not_eq_true', Bool.not_eq_true,
    decide_eq_true_eq, beq_iff_eq, bne_iff_ne, or_assoc]

theorem settlingAfter_column (b : BitVec 4) : settlingAfter b = BitVec.ofNat 4 (stepColumn b.toNat) := by
  revert b
  decide

/-! Step 1 of R281. -/

theorem evalDelta_operand (x : Context) (now : Timestamp) (h : ¬ TimeAdvances x now) : evalDelta x.st now = .error .operand := by
  unfold TimeAdvances at h
  push Not at h
  unfold evalDelta
  rw [if_pos h.1, bind_error]
  left
  rw [ensure_error, tsDiff_eq]
  exact ⟨by simpa using h.2, rfl⟩

theorem evalDelta_eq (x : Context) (now : Timestamp) (h : TimeAdvances x now) : evalDelta x.st now = chk (evalDt x now) := by
  unfold evalDelta evalDt
  cases hp : x.st.havePrev
  · simp only [Bool.false_eq_true, if_false]
    exact (chk_of_fits 0 (by simp [Fits])).symm
  · simp only [if_true]
    have hpos : 0 < tsDiff now x.st.pidT := by
      rw [tsDiff_eq]
      exact Int.sub_pos.mpr (h hp)
    simp only [hpos, decide_true, ensure, if_true]
    rw [← tsDiff_eq]
    cases chk (tsDiff now x.st.pidT) <;> rfl

/-! Step 2 of R281. -/

theorem usesIntegral_iff (x : Context) : usesIntegral x.cfg x.st.clockState = true ↔ UsesIntegral x := by
  simp [usesIntegral, UsesIntegral, csPhaseLocking, csPhaseLocked, csRecovering, or_assoc]

theorem diffTerm_eq (x : Context) (off : Int) (now : Timestamp) :
    diffTerm x.cfg x.st off (evalDt x now) = chk (evalDiff x off now) := by
  unfold diffTerm evalDiff oneSec divT
  by_cases h : x.cfg.dEn = true ∧ x.st.havePrev = true
  · simp only [h.1, h.2, Bool.and_self, if_true, and_self]
  · rw [if_neg h, if_neg (by simpa using h)]
    rfl

/-- The terms, given that they fit. -/
theorem pidTerms_eq (x : Context) (off : TimeInterval) (now : Timestamp) (h : Fits (evalIntegral x off.toInt) ∧ Fits (evalDiff x off.toInt now)
    ∧ Fits (evalAdj x off.toInt now)) :
    pidTerms x.cfg x.st off.toInt (evalDt x now)
      = .ok ⟨raw64 (evalProp x off.toInt), raw64 (evalIntegral x off.toInt), raw64 (evalDiff x off.toInt now), raw64 (evalAdj x off.toInt now)⟩ := by
  obtain ⟨hi, hd, ha⟩ := h
  unfold pidTerms
  rw [diffTerm_eq, chk_of_fits _ hd]
  by_cases hu : UsesIntegral x
  · have hu' := (usesIntegral_iff x).mpr hu
    have e : evalIntegral x off.toInt = x.st.integral.toInt + off.toInt := if_pos hu
    rw [e] at hi
    simp only [hu', if_true, chk_of_fits _ hi]
    show (do let adj ← chk (_ * (_ + divT (raw64 (x.st.integral.toInt + off.toInt)).toInt _ + (raw64 (evalDiff x off.toInt now)).toInt)); pure _) = _
    rw [raw64_toInt_of_fits _ hi, raw64_toInt_of_fits _ hd]
    have ea : x.cfg.gain.toNat * ((if x.cfg.pEn = true then divT off.toInt x.cfg.ap.toNat else 0)
        + divT (x.st.integral.toInt + off.toInt) x.cfg.ai.toNat + evalDiff x off.toInt now) = evalAdj x off.toInt now := by
      unfold evalAdj evalProp evalITerm
      rw [if_pos hu, e]
      rfl
    rw [ea, chk_of_fits _ ha, e]
    rfl
  · have hu' : usesIntegral x.cfg x.st.clockState = false := by
      rw [Bool.eq_false_iff]; exact fun h => hu ((usesIntegral_iff x).mp h)
    have e : evalIntegral x off.toInt = x.st.integral.toInt := if_neg hu
    simp only [hu', Bool.false_eq_true, if_false]
    show (do let adj ← chk (_ * (_ + 0 + (raw64 (evalDiff x off.toInt now)).toInt)); pure _) = _
    rw [raw64_toInt_of_fits _ hd]
    have ea : x.cfg.gain.toNat * ((if x.cfg.pEn = true then divT off.toInt x.cfg.ap.toNat else 0)
        + 0 + evalDiff x off.toInt now) = evalAdj x off.toInt now := by
      unfold evalAdj evalProp evalITerm
      rw [if_neg hu]
      rfl
    rw [ea, chk_of_fits _ ha, e, raw64_of_toInt]
    rfl

theorem pidTerms_ovf (x : Context) (off : TimeInterval) (now : Timestamp) (h : ¬ (Fits (evalIntegral x off.toInt) ∧ Fits (evalDiff x off.toInt now)
    ∧ Fits (evalAdj x off.toInt now))) : pidTerms x.cfg x.st off.toInt (evalDt x now) = .error .ovf := by
  cases hp : pidTerms x.cfg x.st off.toInt (evalDt x now) with
  | error e => rw [pidTerms_error _ _ _ _ _ hp]
  | ok p =>
    exfalso
    apply h
    unfold pidTerms at hp
    rw [diffTerm_eq] at hp
    by_cases hu : UsesIntegral x
    · have hu' := (usesIntegral_iff x).mpr hu
      have e : evalIntegral x off.toInt = x.st.integral.toInt + off.toInt := if_pos hu
      simp only [hu', if_true, bind_ok, chk_ok, ← fits_iff] at hp
      obtain ⟨a, ⟨h1, rfl⟩, b, ⟨h2, rfl⟩, d, ⟨h3, rfl⟩, -⟩ := hp
      refine ⟨e ▸ h1, h2, ?_⟩
      rw [raw64_toInt_of_fits _ h1, raw64_toInt_of_fits _ h2] at h3
      unfold evalAdj evalProp evalITerm
      rw [if_pos hu, e]
      exact h3
    · have hu' : usesIntegral x.cfg x.st.clockState = false := by
        rw [Bool.eq_false_iff]; exact fun h => hu ((usesIntegral_iff x).mp h)
      have e : evalIntegral x off.toInt = x.st.integral.toInt := if_neg hu
      simp only [hu', Bool.false_eq_true, if_false, bind_ok, chk_ok, ← fits_iff] at hp
      obtain ⟨a, -, b, ⟨h2, rfl⟩, d, ⟨h3, rfl⟩, -⟩ := hp
      refine ⟨e ▸ fits_toInt _, h2, ?_⟩
      rw [raw64_toInt_of_fits _ h2] at h3
      unfold evalAdj evalProp evalITerm
      rw [if_neg hu]
      exact h3

/-! Steps 3 to 8 of R281. -/

theorem ppt_eq (a : Int) : -ppt a = ratioOf a := by
  simp [ppt, sra, ratioOf]

theorem saturatingInc_toNat (n : BitVec 16) : (saturatingInc n).toNat = min (n.toNat + 1) 65535 := by
  unfold saturatingInc
  rw [BitVec.toNat_ofNat]
  omega

theorem nextClock_column (s0 : BitVec 4) (good : Bool) : (nextClock s0 good).toNat = pidColumn s0.toNat good := by
  revert s0 good
  decide

theorem holdoverAverage_fits (w : Nat) (avg adj : Int) (h1 : Fits avg) (h2 : Fits adj) : Fits (holdoverAverage w avg adj) := by
  unfold holdoverAverage divT
  rcases Nat.eq_zero_or_pos w with rfl | hw
  · simp [Fits]
  · exact mean_between w _ _ _ _ hw h1 h2

theorem outputCalls_direct (x : Context) (off : Int) (r : Reg) (h : Direct x off) :
    outputCalls x.cfg off r = ([.setFrequencyRatio r x.cfg.domain], r) := by
  unfold outputCalls appliesDirect
  rw [if_pos]
  rw [absI_eq]
  simpa using h

theorem outputCalls_phase (x : Context) (off : Int) (r : Reg) (h : ¬ Direct x off) :
    outputCalls x.cfg off r = ([.setFrequencyRatio 0 x.cfg.domain, .adjustPhase (raw64 (sra off 16)) x.cfg.domain], 0) := by
  unfold outputCalls appliesDirect
  rw [if_neg]
  rw [absI_eq]
  simpa using h

/-! The classification and the holdover tracking as one record update each. -/

theorem classifyStability_eq (g : ServoConfig) (off : Int) (st : ServoState) :
    classifyStability g off st =
      { st with
        stableCnt := if st.havePrev = false then st.stableCnt
          else if |off - st.prevOffset.toInt| ≤ g.stableBand.toInt then saturatingInc st.stableCnt else 0
        unstableCnt := if st.havePrev = false then st.unstableCnt
          else if |off - st.prevOffset.toInt| ≤ g.stableBand.toInt then 0 else saturatingInc st.unstableCnt
        stableOffset := if st.havePrev = false then st.stableOffset
          else if |off - st.prevOffset.toInt| ≤ g.stableBand.toInt then
            (if g.stableN.toNat ≤ (saturatingInc st.stableCnt).toNat then true else st.stableOffset)
          else (if g.unstableM.toNat ≤ (saturatingInc st.unstableCnt).toNat then false else st.stableOffset) } := by
  unfold classifyStability
  simp only [absI_eq]
  by_cases hp : st.havePrev = false
  · have hp' : ¬ st.havePrev = true := by simp [hp]
    simp only [if_pos hp, if_neg hp']
  · have hp' : st.havePrev = true := by simpa using hp
    simp only [if_neg hp, if_pos hp']
    by_cases hb : |off - st.prevOffset.toInt| ≤ g.stableBand.toInt
    · simp only [if_pos hb]
    · simp only [if_neg hb]

theorem classifyOffset_eq (g : ServoConfig) (off : Int) (st : ServoState) :
    classifyOffset g off st =
      { st with offsetOk := if |off| ≤ g.okThr.toInt then true else if g.failThr.toInt < |off| then false else st.offsetOk } := by
  unfold classifyOffset
  simp only [absI_eq]
  split_ifs <;> rfl

theorem trackHoldover_eq (g : ServoConfig) (adj : Int) (st : ServoState) :
    trackHoldover g adj st =
      { st with
        hoCnt := if st.clockState = 7 then
            (if |holdoverAverage g.hoW.toNat st.adjAvg.toInt adj - st.adjAvg.toInt| ≤ g.hoBand.toInt then saturatingInc st.hoCnt else 0)
          else st.hoCnt
        adjAvg := if st.clockState = 7 then raw64 (holdoverAverage g.hoW.toNat st.adjAvg.toInt adj) else st.adjAvg
        holdoverOk := if st.clockState = 7 then
            decide (g.hoCount.toNat ≤ (if |holdoverAverage g.hoW.toNat st.adjAvg.toInt adj - st.adjAvg.toInt| ≤ g.hoBand.toInt
              then saturatingInc st.hoCnt else 0).toNat)
          else st.holdoverOk } := by
  unfold trackHoldover csPhaseLocked
  simp only [absI_eq]
  by_cases h : st.clockState = 7
  · simp only [if_pos h]
  · simp only [if_neg h]

/-- The state registers after the evaluation, field by field. -/
theorem evaluatedState_evaluates (x : Context) (off : TimeInterval) (now : Timestamp) (hf : EvalFits x off.toInt now) :
    Evaluates x off now (evaluatedState x.cfg x.st off now (raw64 (evalDt x now))
      ⟨raw64 (evalProp x off.toInt), raw64 (evalIntegral x off.toInt), raw64 (evalDiff x off.toInt now), raw64 (evalAdj x off.toInt now)⟩
      (if Direct x off.toInt then raw64 (ratioOf (evalAdj x off.toInt now)) else 0)) := by
  obtain ⟨h1, h2, h3, h4, h5⟩ := hf
  have hn : Fits (newAverage x (evalAdj x off.toInt now)) := holdoverAverage_fits _ _ _ (fits_toInt _) h4
  have ha := raw64_toInt_of_fits _ h4
  have hp : Fits (evalProp x off.toInt) := by
    unfold evalProp
    split
    · exact fits_tdiv _ _ (fits_toInt off)
    · simp [Fits]
  have hv : holdoverAverage x.cfg.hoW.toNat x.st.adjAvg.toInt (evalAdj x off.toInt now) = newAverage x (evalAdj x off.toInt now) := rfl
  unfold evaluatedState
  simp only [classifyStability_eq, classifyOffset_eq, trackHoldover_eq, ha, hv]
  constructor
  · exact raw64_toInt_of_fits _ h1
  · exact raw64_toInt_of_fits _ hp
  · exact raw64_toInt_of_fits _ h2
  · exact raw64_toInt_of_fits _ h3
  · exact ha
  · show (if Direct x off.toInt then _ else _ : Reg).toInt = _
    split
    · exact raw64_toInt_of_fits _ h5
    · rfl
  · show (if _ then _ else _ : BitVec 16).toNat = _
    split_ifs <;> simp [saturatingInc_toNat]
  · show (if _ then _ else _ : BitVec 16).toNat = _
    split_ifs <;> simp [saturatingInc_toNat]
  · split_ifs <;> rfl
  · rfl
  · show (if _ then _ else _ : TimeInterval).toInt = _
    split
    · exact raw64_toInt_of_fits _ hn
    · rfl
  · show (if _ then _ else _ : BitVec 16).toNat = _
    split_ifs <;> simp [saturatingInc_toNat]
  · by_cases h7 : x.st.clockState = 7
    · simp only [if_pos h7]
    · simp only [if_neg h7]
  · exact nextClock_column _ _
  · exact ⟨rfl, rfl, rfl⟩
  · exact ⟨rfl, rfl, rfl, rfl, rfl, rfl, rfl, rfl, rfl⟩

/-! The whole evaluation (R281). -/

theorem eventIf_stateChg (a b : BitVec 4) (s : State) :
    eventIf (a != b) evStateChg s = event (if b = a then 0 else 0x100) s := by
  unfold eventIf evStateChg
  by_cases h : a = b
  · simp [h, event]
  · simp [h, Ne.symm h]

theorem event_zero (s : State) : event 0 s = s := by
  show { s with evt := s.evt ||| 0#12 } = s
  rw [BitVec.or_zero]

theorem eventIf_holdover (a b : Bool) (s : State) :
    eventIf (a && !b) evHoldoverRdy s = event (if b = false ∧ a = true then 0x400 else 0) s := by
  cases a <;> cases b <;> first | exact (event_zero s).symm | rfl

theorem event_event (a b : BitVec 12) (s : State) : event b (event a s) = event (a ||| b) s := by
  simp [event, BitVec.or_assoc]

theorem servoEval_operand (c : CtxId) (off : TimeInterval) (now : Timestamp) (s : State) (h : ¬ TimeAdvances s.sv[c] now) :
    servoEval c off now s = .error .operand := by
  unfold servoEval
  rw [bind_error]
  exact .inl (evalDelta_operand _ _ h)

theorem servoEval_ovf (c : CtxId) (off : TimeInterval) (now : Timestamp) (s : State) (h : TimeAdvances s.sv[c] now)
    (hf : ¬ EvalFits s.sv[c] off.toInt now) : servoEval c off now s = .error .ovf := by
  unfold servoEval
  rw [bind_error, evalDelta_eq _ _ h]
  by_cases h1 : Fits (evalDt s.sv[c] now)
  · right
    refine ⟨_, chk_of_fits _ h1, ?_⟩
    rw [bind_error, raw64_toInt_of_fits _ h1]
    by_cases h2 : Fits (evalIntegral s.sv[c] off.toInt) ∧ Fits (evalDiff s.sv[c] off.toInt now) ∧ Fits (evalAdj s.sv[c] off.toInt now)
    · right
      refine ⟨_, pidTerms_eq _ _ _ h2, ?_⟩
      rw [bind_error]
      left
      rw [raw64_toInt_of_fits _ h2.2.2, ppt_eq]
      exact chk_of_not_fits _ fun h5 => hf ⟨h1, h2.1, h2.2.1, h2.2.2, h5⟩
    · exact .inl (pidTerms_ovf _ _ _ h2)
  · exact .inl (chk_of_not_fits _ h1)

theorem servoEval_committed (c : CtxId) (off : TimeInterval) (now : Timestamp) (s : State) (h : TimeAdvances s.sv[c] now)
    (hf : EvalFits s.sv[c] off.toInt now) :
    ∃ z, Evaluates s.sv[c] off now z
      ∧ servoEval c off now s = .ok (committed c z (evalCalls s.sv[c] off.toInt now) (evalEvents s.sv[c].st z) s) := by
  refine ⟨_, evaluatedState_evaluates _ _ _ hf, ?_⟩
  obtain ⟨h1, h2, h3, h4, h5⟩ := hf
  unfold servoEval
  rw [bind_ok]
  refine ⟨_, (evalDelta_eq _ _ h).trans (chk_of_fits _ h1), ?_⟩
  rw [bind_ok, raw64_toInt_of_fits _ h1]
  refine ⟨_, pidTerms_eq _ _ _ ⟨h2, h3, h4⟩, ?_⟩
  rw [bind_ok]
  refine ⟨raw64 (ratioOf (evalAdj s.sv[c] off.toInt now)), ?_, ?_⟩
  · rw [raw64_toInt_of_fits _ h4, ppt_eq]
    exact chk_of_fits _ h5
  · have ho : outputCalls s.sv[c].cfg off.toInt (raw64 (ratioOf (evalAdj s.sv[c] off.toInt now)))
        = (evalCalls s.sv[c] off.toInt now, if Direct s.sv[c] off.toInt then raw64 (ratioOf (evalAdj s.sv[c] off.toInt now)) else 0) := by
      unfold evalCalls
      by_cases hd : Direct s.sv[c] off.toInt
      · rw [outputCalls_direct _ _ _ hd, if_pos hd, if_pos hd]
        rfl
      · rw [outputCalls_phase _ _ _ hd, if_neg hd, if_neg hd]
        rfl
    rw [ho]
    simp only [pure_eq_ok]
    generalize evaluatedState _ _ _ _ _ _ _ = z
    rw [eventIf_stateChg, eventIf_holdover, event_event]
    rfl

end Sys2Proof.Machine
end

