-- ==== Sys2Proof/Laws/Csr.lean ====
section
/-! SUPPORT. CSR images taken apart: the bits of a value made of fields, and a field read back from it; and within each group of CSRs a
write of one number leaves what every other number reads. -/

namespace Sys2Proof.Machine

/-- Bit `k` of a field put at position `n`. -/
theorem getLsbD_fieldAt (n : Nat) {w : Nat} (v : BitVec w) (k : Nat) :
    (fieldAt n v).getLsbD k = (decide (k < 64) && decide (n ≤ k) && v.getLsbD (k - n)) := by
  simp only [fieldAt, BitVec.getLsbD_shiftLeft, BitVec.getLsbD_setWidth]
  by_cases h : k < 64 <;> by_cases h2 : n ≤ k
  · simp [h, h2, show k - n < 64 by omega]
  · simp [h, h2]
  · simp [h]
  · simp [h]

/-- Bit `k` of a single bit put at position `n`. -/
theorem getLsbD_bitAt (n : Nat) (b : Bool) (k : Nat) : (bitAt n b).getLsbD k = (decide (k < 64) && decide (k = n) && b) := by
  have h : bitAt n b = fieldAt n (BitVec.ofBool b) := by cases b <;> simp [bitAt, fieldAt]
  rw [h, getLsbD_fieldAt]
  by_cases h1 : k = n
  · subst h1; simp
  · by_cases h2 : n ≤ k
    · simp [h1, show k - n ≠ 0 by omega, BitVec.getLsbD_ofBool]
    · simp [h1, h2]

/-- Bit `k` of a value in the low bits. -/
theorem getLsbD_low {w : Nat} (v : BitVec w) (k : Nat) : (low v).getLsbD k = (decide (k < 64) && v.getLsbD k) := by
  simp [low]

/-- A field of a value, when its bits are those of `v`. -/
theorem field_eq {x : Reg} {lo w : Nat} {v : BitVec w} (h : ∀ k, k < w → x.getLsbD (lo + k) = v.getLsbD k) :
    x.toNat / 2 ^ lo % 2 ^ w = v.toNat := by
  have : x.extractLsb' lo w = v := by ext k hk; simpa [hk] using h k hk
  rw [← this]
  simp [BitVec.extractLsb'_toNat, Nat.shiftRight_eq_div_pow]

/-- A one-bit field of a value. -/
theorem bit_eq {x : Reg} {lo : Nat} {b : Bool} (h : x.getLsbD lo = b) : x.toNat / 2 ^ lo % 2 ^ 1 = b.toNat := by
  rw [show b.toNat = (BitVec.ofBool b).toNat by simp]
  refine field_eq fun k hk => ?_
  obtain rfl : k = 0 := by omega
  simpa [BitVec.getLsbD_ofBool] using h

/-! Writes seen by reads of other numbers of the same group. -/

/-- The header registers (R30). -/
theorem readHeader_writeHeader_ne (v : Reg) (x : Header) (a b : Nat) (h : b ≠ a) : readHeader (writeHeader v x a) b = readHeader x b := by
  unfold readHeader
  split <;> first | (unfold writeHeader; split <;> first | exact absurd rfl h | rfl) | rfl

/-- The Announce registers (R31). -/
theorem readAnnounce_writeAnnounce_ne (v : Reg) (x : Announce) (a b : Nat) (h : b ≠ a) : readAnnounce (writeAnnounce v x a) b = readAnnounce x b := by
  unfold readAnnounce
  split <;> first | (unfold writeAnnounce; split <;> first | exact absurd rfl h | rfl) | rfl

/-- The leap configuration, the time properties and the TLV registers (R32, R33). -/
theorem readLeapTlv_writeLeapTlv_ne (v : Reg) (x : State) (a b : Nat) (h : b ≠ a) : readLeapTlv (writeLeapTlv v x a) b = readLeapTlv x b := by
  unfold readLeapTlv
  split <;> first | (unfold writeLeapTlv; split <;> first | exact absurd rfl h | rfl) | rfl

/-- The servo configuration registers (R36). -/
theorem readServoConfig_writeServoConfig_ne (v : Reg) (x : ServoConfig) (a b : Nat) (h : b ≠ a) : readServoConfig (writeServoConfig v x a) b = readServoConfig x b := by
  unfold readServoConfig
  split <;> first | (unfold writeServoConfig; split <;> first | exact absurd rfl h | rfl) | rfl

/-- The servo state registers (R37). -/
theorem readServoState_writeServoState_ne (v : Reg) (x : ServoState) (a b : Nat) (h : b ≠ a) : readServoState (writeServoState v x a) b = readServoState x b := by
  unfold readServoState
  split <;> first | (unfold writeServoState; split <;> first | exact absurd rfl h | rfl) | rfl

/-- The filter registers (R38). -/
theorem readFilter_writeFilter_ne (v : Reg) (x : Filter) (a b : Nat) (h : b ≠ a) : readFilter (writeFilter v x a) b = readFilter x b := by
  unfold readFilter
  split <;> first | (unfold writeFilter; split <;> first | exact absurd rfl h | rfl) | rfl

/-- The timer registers (R39). -/
theorem readTimer_writeTimer_ne (v : Reg) (x : Timer) (a b : Nat) (h : b ≠ a) : readTimer (writeTimer v x a) b = readTimer x b := by
  unfold readTimer
  split <;> first | (unfold writeTimer; split <;> first | exact absurd rfl h | rfl) | rfl

/-- A servo context with its two filters (R35). -/
theorem readContext_writeContext_ne (v : Reg) (x : Context) (a b : Nat) (ha : a < 0x40) (hb : b < 0x40) (h : b ≠ a) :
    readContext (writeContext v x a) b = readContext x b := by
  unfold writeContext
  split
  · unfold readContext
    split
    · exact readServoConfig_writeServoConfig_ne v x.cfg a b h
    · rfl
  · split
    · unfold readContext
      split
      · rfl
      · split
        · exact readServoState_writeServoState_ne v x.st a b h
        · rfl
    · unfold readContext
      split
      · rfl
      · split
        · rfl
        · simp only [Fin.getElem_fin, Vector.getElem_set]
          split
          · rename_i e
            have : b % 8 ≠ a % 8 := by
              simp only [Fin.ofNat] at e
              omega
            rw [readFilter_writeFilter_ne _ _ _ _ this]
            simp only [e]
          · rfl

end Sys2Proof.Machine
end

