-- ==== Sys2Proof/Laws/Encoding.lean ====
section
/-! SUPPORT. Taking command words apart: the fields of a word put together, and reading back the index an operand field holds. -/

namespace Sys2Proof

/-- The fields of the word that `wordOf` puts together. -/
theorem fieldsOf_wordOf (f : Fields) : fieldsOf (wordOf f) = f := by
  obtain ⟨op, a, b, c, imm⟩ := f
  simp only [fieldsOf, wordOf, Fields.mk.injEq]
  refine ⟨?_, ?_, ?_, ?_, ?_⟩ <;>
  · apply BitVec.eq_of_getLsbD_eq
    intro i hi
    simp only [BitVec.getLsbD_extractLsb', BitVec.getLsbD_or, BitVec.getLsbD_shiftLeft, BitVec.getLsbD_setWidth]
    interval_cases i <;> simp

/-- The word of the fields that `fieldsOf` takes apart. -/
theorem wordOf_fieldsOf (w : CommandWord) : wordOf (fieldsOf w) = w := by
  apply BitVec.eq_of_getLsbD_eq
  intro i hi
  simp only [fieldsOf, wordOf, BitVec.getLsbD_extractLsb', BitVec.getLsbD_or, BitVec.getLsbD_shiftLeft, BitVec.getLsbD_setWidth]
  interval_cases i <;> simp

theorem extract_ofNat (n s k m : Nat) (hn : n % 4294967296 = n) (h : n / 2 ^ s % 2 ^ k = m % 2 ^ k) :
    (BitVec.ofNat 32 n).extractLsb' s k = BitVec.ofNat k m := by
  apply BitVec.eq_of_toNat_eq
  rw [BitVec.extractLsb'_toNat, BitVec.toNat_ofNat, BitVec.toNat_ofNat, Nat.shiftRight_eq_div_pow,
    show (2 : Nat) ^ 32 = 4294967296 from rfl, hn, h]

theorem commandWord_parts (op a b c imm n : Nat) (ho : op < 256) (ha : a < 16) (hb : b < 16) (hc : c < 16) (hi : imm < 4096)
    (hn : n = op * 16777216 + a * 1048576 + b * 65536 + c * 4096 + imm) :
    n % 4294967296 = n ∧ n / 16777216 % 256 = op % 256 ∧ n / 1048576 % 16 = a % 16 ∧ n / 65536 % 16 = b % 16
      ∧ n / 4096 % 16 = c % 16 ∧ n % 4096 = imm % 4096 := by
  omega

/-- The fields of a word given as a sum. -/
theorem fieldsOf_commandWord (op a b c imm : Nat) (ho : op < 256) (ha : a < 16) (hb : b < 16) (hc : c < 16) (hi : imm < 4096) :
    fieldsOf (Machine.commandWord op a b c imm)
      = ⟨BitVec.ofNat 8 op, BitVec.ofNat 4 a, BitVec.ofNat 4 b, BitVec.ofNat 4 c, BitVec.ofNat 12 imm⟩ := by
  obtain ⟨h0, h1, h2, h3, h4, h5⟩ := commandWord_parts op a b c imm _ ho ha hb hc hi rfl
  unfold fieldsOf Machine.commandWord
  generalize op * 16777216 + a * 1048576 + b * 65536 + c * 4096 + imm = n at *
  rw [extract_ofNat n 24 8 op h0 h1, extract_ofNat n 20 4 a h0 h2, extract_ofNat n 16 4 b h0 h3, extract_ofNat n 12 4 c h0 h4,
    extract_ofNat n 0 12 imm h0 (by simpa using h5)]

/-- An index that is in range is read back. -/
theorem index_ofNat {n w : Nat} (x : Fin n) (h : n ≤ 2 ^ w) : index n (BitVec.ofNat w x.val) = some x := by
  have hx : x.val % 2 ^ w = x.val := Nat.mod_eq_of_lt (Nat.lt_of_lt_of_le x.isLt h)
  simp [index, hx]

/-- An index that is read is the field's value. -/
theorem index_eq_some {n w : Nat} (f : BitVec w) (x : Fin n) : index n f = some x ↔ f.toNat = x.val := by
  unfold index
  split
  · simp [Fin.ext_iff]
  · rename_i h
    simp only [reduceCtorEq, false_iff]
    intro he
    exact h (he ▸ x.isLt)

theorem provided_eq_some (c : Bool) (i : Option Instr) (j : Instr) : provided c i = some j ↔ c = true ∧ i = some j := by
  cases c <;> simp [provided]

end Sys2Proof
end

