-- ==== Sys2Proof/Laws/Memory.lean ====
section
/-! SUPPORT. The laws of the buffer memory: a read after a write, and the canonical form that every operation keeps. -/

namespace Sys2Proof.Machine

/-! Reads after writes. -/

theorem lookup_insertCell (a : Nat) (v : Byte) (l : List Host.Cell) (x : Nat) :
    lookup (insertCell a v l) x = if x = a then some v else lookup l x := by
  induction l with
  | nil => simp [insertCell, lookup]
  | cons p rest ih =>
    obtain ⟨b, w⟩ := p
    simp only [insertCell]
    split
    · simp [lookup]
    · split
      · subst_vars
        simp only [lookup]
        split <;> simp_all
      · simp only [lookup, ih]
        split <;> split <;> simp_all

@[simp] theorem readByte_powerOn (m : Memory) (a : Nat) (v : Byte) : (writeByte m a v).powerOn = m.powerOn := by
  unfold writeByte
  split <;> rfl

/-- A read after a write of one byte: the byte written there, every other byte as before. -/
theorem readByte_writeByte (m : Memory) (a : Nat) (v : Byte) (h : a < bufBytes) (x : Nat) :
    readByte (writeByte m a v) x = if x = a then v else readByte m x := by
  simp only [readByte, writeByte, h, ↓reduceIte, lookup_insertCell]
  split <;> rfl

theorem readByte_writeByte_same (m : Memory) (a : Nat) (v : Byte) (h : a < bufBytes) :
    readByte (writeByte m a v) a = v := by
  simp [readByte_writeByte, h]

/-- A byte outside `BUF` is not stored. -/
theorem writeByte_outside (m : Memory) (a : Nat) (v : Byte) (h : bufBytes ≤ a) : writeByte m a v = m := by
  simp [writeByte, Nat.not_lt.mpr h]

/-- A write of one byte leaves every other byte, whether or not the offset lies in `BUF`. -/
theorem readByte_writeByte_ne (m : Memory) (a : Nat) (v : Byte) (x : Nat) (h : x ≠ a) :
    readByte (writeByte m a v) x = readByte m x := by
  by_cases hb : a < bufBytes
  · simp [readByte_writeByte, hb, h]
  · rw [writeByte_outside m a v (Nat.not_lt.mp hb)]

/-- A read after a write of several bytes. -/
theorem readByte_writeBytes (bs : List Byte) (m : Memory) (a : Nat) (h : a + bs.length ≤ bufBytes) (x : Nat) :
    readByte (writeBytes m a bs) x = if a ≤ x then (bs[x - a]?).getD (readByte m x) else readByte m x := by
  induction bs generalizing m a with
  | nil => simp [writeBytes]
  | cons v vs ih =>
    simp only [List.length_cons] at h
    rw [writeBytes, ih _ _ (by omega), readByte_writeByte _ _ _ (by omega)]
    by_cases h1 : a + 1 ≤ x
    · have hx : x ≠ a := by omega
      rw [if_pos h1, if_neg hx, if_pos (by omega), show x - a = (x - (a + 1)) + 1 by omega]
      simp
    · rw [if_neg h1]
      by_cases h2 : x = a
      · subst h2
        simp
      · rw [if_neg h2, if_neg (by omega)]

/-- Bytes outside the stored range are as before. -/
theorem readByte_writeBytes_outside (bs : List Byte) (m : Memory) (a x : Nat) (h : x < a ∨ a + bs.length ≤ x) :
    readByte (writeBytes m a bs) x = readByte m x := by
  induction bs generalizing m a with
  | nil => rfl
  | cons v vs ih =>
    simp only [List.length_cons] at h
    rw [writeBytes, ih _ _ (by omega), readByte_writeByte_ne _ _ _ _ (by omega)]

@[simp] theorem readBytes_length (m : Memory) (a n : Nat) : (readBytes m a n).length = n := by
  induction n generalizing a with
  | zero => rfl
  | succ n ih => simp [readBytes, ih]

@[simp] theorem bytesOf_length (v n : Nat) : (bytesOf v n).length = n := by
  induction n with
  | zero => rfl
  | succ n ih => simp [bytesOf, ih]

/-- Byte `i` of the `n` bytes that are read. -/
theorem readBytes_getElem? (m : Memory) (a n i : Nat) (h : i < n) : (readBytes m a n)[i]? = some (readByte m (a + i)) := by
  induction n generalizing a i with
  | zero => omega
  | succ n ih =>
    cases i with
    | zero => simp [readBytes]
    | succ i =>
      rw [readBytes, List.getElem?_cons_succ, ih _ _ (by omega)]
      congr 2
      omega

/-! The canonical form. -/

theorem mem_insertCell (a : Nat) (v : Byte) (l : List Host.Cell) (p : Host.Cell) (h : p ∈ insertCell a v l) :
    p = (a, v) ∨ p ∈ l := by
  induction l with
  | nil => simpa [insertCell] using h
  | cons q rest ih =>
    obtain ⟨b, w⟩ := q
    simp only [insertCell] at h
    split at h
    · simpa using h
    · split at h
      · rcases List.mem_cons.mp h with h | h
        · exact .inl h
        · exact .inr (List.mem_cons_of_mem _ h)
      · rcases List.mem_cons.mp h with h | h
        · exact .inr (h ▸ List.mem_cons_self)
        · exact (ih h).imp id (List.mem_cons_of_mem _)

/-- Inserting a cell keeps the offsets strictly rising. -/
theorem insertCell_rising (a : Nat) (v : Byte) (l : List Host.Cell) (h : l.Pairwise fun x y => x.1 < y.1) :
    (insertCell a v l).Pairwise fun x y => x.1 < y.1 := by
  induction l with
  | nil => simp [insertCell]
  | cons q rest ih =>
    obtain ⟨b, w⟩ := q
    obtain ⟨h1, h2⟩ := List.pairwise_cons.mp h
    simp only [insertCell]
    split
    · rename_i hab
      refine List.pairwise_cons.mpr ⟨fun p hp => ?_, h⟩
      rcases List.mem_cons.mp hp with rfl | hp
      · exact hab
      · exact Nat.lt_trans hab (h1 p hp)
    · split
      · rename_i hab
        subst hab
        exact List.pairwise_cons.mpr ⟨h1, h2⟩
      · refine List.pairwise_cons.mpr ⟨fun p hp => ?_, ih h2⟩
        rcases mem_insertCell a v rest p hp with rfl | hp
        · show b < a
          omega
        · exact h1 p hp

theorem wf_iff (m : Memory) :
    m.wf = true ↔ m.cells.Pairwise (fun x y => x.1 < y.1) ∧ ∀ c ∈ m.cells, c.1 < bufBytes := by
  simp [Memory.wf]

/-- A write of one byte keeps the canonical form. -/
theorem writeByte_wf (m : Memory) (a : Nat) (v : Byte) (h : m.wf = true) : (writeByte m a v).wf = true := by
  unfold writeByte
  split
  · rename_i ha
    obtain ⟨h1, h2⟩ := (wf_iff m).mp h
    refine (wf_iff _).mpr ⟨insertCell_rising a v _ h1, fun c hc => ?_⟩
    rcases mem_insertCell a v _ c hc with rfl | hc
    · exact ha
    · exact h2 c hc
  · exact h

/-- A write of several bytes keeps the canonical form. -/
theorem writeBytes_wf (bs : List Byte) (m : Memory) (a : Nat) (h : m.wf = true) : (writeBytes m a bs).wf = true := by
  induction bs generalizing m a with
  | nil => exact h
  | cons v vs ih => exact ih _ _ (writeByte_wf m a v h)

theorem memWrite_wf (off n v : Nat) (m : Memory) (h : m.wf = true) : (memWrite off n v m).wf = true :=
  writeBytes_wf _ m off h

theorem putTs_wf (off : Nat) (t : Timestamp) (m : Memory) (h : m.wf = true) : (putTs off t m).wf = true :=
  memWrite_wf _ _ _ _ (memWrite_wf _ _ _ _ (memWrite_wf _ _ _ _ h))

theorem putPid_wf (off : Nat) (p : PortId) (m : Memory) (h : m.wf = true) : (putPid off p m).wf = true :=
  memWrite_wf _ _ _ _ (memWrite_wf _ _ _ _ h)

theorem persist_wf (p : TimeProps) (s : State) (h : s.buf.wf = true) : (persist p s).buf.wf = true :=
  writeByte_wf _ _ _ h

theorem putAnnounce_wf (t : Timestamp) (u : BitVec 16) (s : State) (h : s.buf.wf = true) : (putAnnounce t u s).buf.wf = true :=
  writeBytes_wf _ _ _ (putTs_wf _ _ _ h)

/-- An empty buffer, as after reset, has the canonical form. -/
theorem empty_wf (e : Nat) : (Memory.mk [] e).wf = true := by
  simp [Memory.wf]

theorem reset_wf : State.reset.buf.wf = true := empty_wf _

/-- In canonical form, equal contents are equal data: two buffers with the same cells of bytes have the same list. -/
theorem cells_ext (m m' : Memory) (h : m.wf = true) (h' : m'.wf = true) (hl : ∀ a, lookup m.cells a = lookup m'.cells a) :
    m.cells = m'.cells := by
  have key : ∀ l l' : List Host.Cell, l.Pairwise (fun x y => x.1 < y.1) → l'.Pairwise (fun x y => x.1 < y.1) →
      (∀ a, lookup l a = lookup l' a) → l = l' := by
    have none_of : ∀ (l : List Host.Cell) (a : Nat), (∀ p ∈ l, a < p.1) → lookup l a = none := by
      intro l a hl
      induction l with
      | nil => rfl
      | cons p rest ih =>
        obtain ⟨b, w⟩ := p
        have hb : a < b := hl (b, w) List.mem_cons_self
        simp only [lookup]
        rw [if_neg (by omega)]
        exact ih fun p hp => hl p (List.mem_cons_of_mem _ hp)
    intro l
    induction l with
    | nil =>
      intro l' _ _ hll
      cases l' with
      | nil => rfl
      | cons p rest =>
        obtain ⟨b, w⟩ := p
        have := hll b
        simp [lookup] at this
    | cons p rest ih =>
      intro l' hp hp' hll
      obtain ⟨b, w⟩ := p
      obtain ⟨h1, h2⟩ := List.pairwise_cons.mp hp
      cases l' with
      | nil =>
        have := hll b
        simp [lookup] at this
      | cons p' rest' =>
        obtain ⟨b', w'⟩ := p'
        obtain ⟨h1', h2'⟩ := List.pairwise_cons.mp hp'
        have hb : b = b' := by
          rcases Nat.lt_trichotomy b b' with hlt | heq | hgt
          · have h3 := hll b
            rw [none_of ((b', w') :: rest') b] at h3
            · simp [lookup] at h3
            · intro q hq
              rcases List.mem_cons.mp hq with rfl | hq
              · exact hlt
              · exact Nat.lt_trans hlt (h1' q hq)
          · exact heq
          · have h3 := hll b'
            rw [none_of ((b, w) :: rest) b'] at h3
            · simp [lookup] at h3
            · intro q hq
              rcases List.mem_cons.mp hq with rfl | hq
              · exact hgt
              · exact Nat.lt_trans hgt (h1 q hq)
        subst hb
        have hw : w = w' := by
          have h3 := hll b
          simpa [lookup] using h3
        subst hw
        congr 1
        refine ih rest' h2 h2' fun a => ?_
        by_cases hab : a = b
        · subst hab
          rw [none_of rest a h1, none_of rest' a h1']
        · have h3 := hll a
          simpa [lookup, hab] using h3
  exact key _ _ ((wf_iff m).mp h).1 ((wf_iff m').mp h').1 hl

end Sys2Proof.Machine
end

