-- ==== Sys2Proof/Laws/Outcomes.lean ====
section
/-! SUPPORT. For the commands with several branches one lemma each that says every next state they can answer: the state with an error
taken, or the completed copy, branch by branch. -/

namespace Sys2Proof.Machine

/-- Every arm of `exec` is a pseudocode in the frame of R130. -/
theorem exec_body (i : Instr) : ∃ body : Body, ∀ s, exec i s = command body s := by
  cases i with
  | nop => exact ⟨_, fun s => by unfold exec execNop; rfl⟩
  | tiMov _ _ => exact ⟨_, fun s => by unfold exec execTiMov; rfl⟩
  | tiAdd _ _ _ => exact ⟨_, fun s => by unfold exec execTiAdd; rfl⟩
  | tiSub _ _ _ => exact ⟨_, fun s => by unfold exec execTiSub; rfl⟩
  | tiNeg _ _ => exact ⟨_, fun s => by unfold exec execTiNeg; rfl⟩
  | tiAbs _ _ => exact ⟨_, fun s => by unfold exec execTiAbs; rfl⟩
  | tiHalf _ _ => exact ⟨_, fun s => by unfold exec execTiHalf; rfl⟩
  | tiFromNs _ _ => exact ⟨_, fun s => by unfold exec execTiFromNs; rfl⟩
  | tiToNs _ _ => exact ⟨_, fun s => by unfold exec execTiToNs; rfl⟩
  | tiCmp _ _ => exact ⟨_, fun s => by unfold exec execTiCmp; rfl⟩
  | tiMulI _ _ _ => exact ⟨_, fun s => by unfold exec execTiMulI; rfl⟩
  | tiDivI _ _ _ => exact ⟨_, fun s => by unfold exec execTiDivI; rfl⟩
  | tsMov _ _ => exact ⟨_, fun s => by unfold exec execTsMov; rfl⟩
  | tsSub _ _ _ => exact ⟨_, fun s => by unfold exec execTsSub; rfl⟩
  | tsAddI _ _ _ => exact ⟨_, fun s => by unfold exec execTsAddI; rfl⟩
  | tsDiffC _ _ _ _ => exact ⟨_, fun s => by unfold exec execTsDiffC; rfl⟩
  | fltReset _ _ => exact ⟨_, fun s => by unfold exec execFltReset; rfl⟩
  | fltStep _ _ _ _ => exact ⟨_, fun s => by unfold exec execFltStep; rfl⟩
  | svReset _ => exact ⟨_, fun s => by unfold exec execSvReset; rfl⟩
  | svDelay _ _ _ _ => exact ⟨_, fun s => by unfold exec execSvDelay; rfl⟩
  | svOffset _ _ _ _ => exact ⟨_, fun s => by unfold exec execSvOffset; rfl⟩
  | svPid _ _ _ => exact ⟨_, fun s => by unfold exec execSvPid; rfl⟩
  | svSwitch => exact ⟨_, fun s => by unfold exec execSvSwitch; rfl⟩
  | svLost _ => exact ⟨_, fun s => by unfold exec execSvLost; rfl⟩
  | svStat _ => exact ⟨_, fun s => by unfold exec execSvStat; rfl⟩
  | pkHdr => exact ⟨_, fun s => by unfold exec execPkHdr; rfl⟩
  | upHdr => exact ⟨_, fun s => by unfold exec execUpHdr; rfl⟩
  | pkTs _ => exact ⟨_, fun s => by unfold exec execPkTs; rfl⟩
  | upTs _ => exact ⟨_, fun s => by unfold exec execUpTs; rfl⟩
  | pkPd _ _ => exact ⟨_, fun s => by unfold exec execPkPd; rfl⟩
  | upPd _ _ => exact ⟨_, fun s => by unfold exec execUpPd; rfl⟩
  | pkAnn _ => exact ⟨_, fun s => by unfold exec execPkAnn; rfl⟩
  | upAnn _ => exact ⟨_, fun s => by unfold exec execUpAnn; rfl⟩
  | pkSig _ => exact ⟨_, fun s => by unfold exec execPkSig; rfl⟩
  | upSig _ => exact ⟨_, fun s => by unfold exec execUpSig; rfl⟩
  | pkTlv => exact ⟨_, fun s => by unfold exec execPkTlv; rfl⟩
  | upTlv => exact ⟨_, fun s => by unfold exec execUpTlv; rfl⟩
  | ccFreq _ _ => exact ⟨_, fun s => by unfold exec execCcFreq; rfl⟩
  | ccSetTime _ _ => exact ⟨_, fun s => by unfold exec execCcSetTime; rfl⟩
  | ccDelta _ _ => exact ⟨_, fun s => by unfold exec execCcDelta; rfl⟩
  | ccPhase _ _ => exact ⟨_, fun s => by unfold exec execCcPhase; rfl⟩
  | ccGetTime _ _ => exact ⟨_, fun s => by unfold exec execCcGetTime; rfl⟩
  | tmInit _ _ => exact ⟨_, fun s => by unfold exec execTmInit; rfl⟩
  | tmStart _ _ _ => exact ⟨_, fun s => by unfold exec execTmStart; rfl⟩
  | tmStop _ => exact ⟨_, fun s => by unfold exec execTmStop; rfl⟩
  | tmTick _ => exact ⟨_, fun s => by unfold exec execTmTick; rfl⟩
  | sysReset => exact ⟨_, fun s => by unfold exec execSysReset; rfl⟩

/-- A command always answers a next state. -/
theorem exec_next (i : Instr) (s : State) : ∃ t, exec i s = .next t := by
  obtain ⟨body, h⟩ := exec_body i
  rw [h]
  exact command_exists body s

/-- A command that has not raised is the completed copy, with `STATUS.OK` set; one that has raised is the state with the error taken. -/
theorem exec_ends (i : Instr) (s t : State) (h : exec i s = .next t) :
    (t.status.ok = true ∧ ∃ u v, t = complete u v) ∨ (t.status.ok = false ∧ ∃ e, t = takeError e s) := by
  obtain ⟨body, hb⟩ := exec_body i
  rw [hb, command_next] at h
  rcases h with ⟨u, v, -, rfl⟩ | ⟨e, -, rfl⟩
  · exact .inl ⟨rfl, u, v, rfl⟩
  · exact .inr ⟨rfl, e, rfl⟩

/-! Filter and servo commands. -/

/-- `FLT.STEP` (R196). -/
theorem fltStep_next (c : CtxId) (f : FltId) (a d : TiReg) (s t : State) (h : exec (.fltStep c f a d) s = .next t) :
    (∃ e, fltStep s.sv[c].flt[f] s.ti[a] = .error e ∧ t = takeError e s)
      ∨ ∃ F, (fltStep s.sv[c].flt[f] s.ti[a] = .ok (F, none) ∧ t = complete (setFlt c f F s) false)
          ∨ ∃ y, fltStep s.sv[c].flt[f] s.ti[a] = .ok (F, some y) ∧ t = complete (setTi d y (setFlt c f F s)) true := by
  unfold exec execFltStep at h
  rw [command_next] at h
  rcases h with ⟨u, v, h, rfl⟩ | ⟨e, h, rfl⟩
  · rw [bind_ok] at h
    obtain ⟨⟨F, o⟩, hF, h⟩ := h
    refine .inr ⟨F, ?_⟩
    cases o with
    | none =>
      simp only [pure_eq_ok, Prod.mk.injEq] at h
      obtain ⟨rfl, rfl⟩ := h
      exact .inl ⟨hF, rfl⟩
    | some y =>
      simp only [pure_eq_ok, Prod.mk.injEq] at h
      obtain ⟨rfl, rfl⟩ := h
      exact .inr ⟨y, hF, rfl⟩
  · rw [bind_error] at h
    rcases h with h | ⟨⟨F, o⟩, hF, h⟩
    · exact .inl ⟨e, h, rfl⟩
    · cases o <;> simp only [pure_ne_error] at h

/-- `SV.DELAY` (R266). -/
theorem svDelay_next (c : CtxId) (a b : TsReg) (i : TiReg) (s t : State) (h : exec (.svDelay c a b i) s = .next t) :
    let x := s.sv[c]
    let s2m := oneWay s.ts[a] s.ts[b] (tiInt s i)
    let raw := divT (x.st.m2s.toInt + s2m) 2
    (∃ e, t = takeError e s ∧ (e = .inactive ∨ e = .operand ∨ e = .cfg ∨ e = .discard ∨ e = .ovf))
      ∨ (c = s.svActive ∧ t = complete (setSt c { x.st with forceStep := true } s) false)
      ∨ ∃ F, (c = s.svActive ∧ fltStep x.flt[(0 : FltId)] (raw64 raw) = .ok (F, none)
            ∧ t = complete (setSt c { x.st with s2m := raw64 s2m } (setFlt c 0 F s)) false)
          ∨ ∃ y, c = s.svActive ∧ fltStep x.flt[(0 : FltId)] (raw64 raw) = .ok (F, some y)
            ∧ t = complete (setSt c { x.st with s2m := raw64 s2m, mpd := y, haveDelay := true } (setFlt c 0 F s)) true := by
  intro x s2m raw
  unfold exec execSvDelay at h
  rw [command_next] at h
  rcases h with ⟨u, v, h, rfl⟩ | ⟨e, h, rfl⟩
  · simp only [bind_ok, needActive_ok, needWf_ok, cfgState_ok, lifetimeCheck_ok, ensure_ok] at h
    obtain ⟨-, hc, -, -, -, -, -, -, -, -, -, -, h⟩ := h
    refine .inr ?_
    split at h
    · simp only [pure_eq_ok, Prod.mk.injEq] at h
      obtain ⟨rfl, rfl⟩ := h
      exact .inl ⟨hc, rfl⟩
    · rw [bind_ok] at h
      obtain ⟨⟨F, o⟩, hF, h⟩ := h
      refine .inr ⟨F, ?_⟩
      cases o with
      | none =>
        simp only [pure_eq_ok, Prod.mk.injEq] at h
        obtain ⟨rfl, rfl⟩ := h
        exact .inl ⟨hc, hF, rfl⟩
      | some y =>
        simp only [pure_eq_ok, Prod.mk.injEq] at h
        obtain ⟨rfl, rfl⟩ := h
        exact .inr ⟨y, hc, hF, rfl⟩
  · refine .inl ⟨e, rfl, ?_⟩
    simp only [bind_error, needActive_error, needWf_error, cfgState_error, ensure_error] at h
    rcases h with ⟨-, rfl⟩ | ⟨-, -, ⟨-, rfl⟩ | ⟨-, -, ⟨-, rfl⟩ | ⟨-, -, ⟨-, rfl⟩ | ⟨-, -, h | ⟨-, -, ⟨-, rfl⟩ | ⟨-, -, h⟩⟩⟩⟩⟩⟩
    · simp
    · simp
    · simp
    · simp
    · simp [lifetimeCheck_error _ _ h]
    · simp
    · split at h
      · simp at h
      · rw [bind_error] at h
        rcases h with h | ⟨⟨F, o⟩, -, h⟩
        · rcases fltStep_error _ _ _ h with ⟨rfl, -⟩ | ⟨rfl, -⟩ <;> simp
        · cases o <;> simp only [pure_ne_error] at h

/-- `SV.PID` (R280). -/
theorem svPid_next (c : CtxId) (o : TiReg) (n : TsReg) (s t : State) (h : exec (.svPid c o n) s = .next t) :
    (∃ e, t = takeError e s ∧ (e = .inactive ∨ e = .operand ∨ e = .cfg ∨ e = .ovf))
      ∨ (c = s.svActive ∧ settling s.sv[c].st.clockState = true ∧ t = complete s false)
      ∨ ∃ u, c = s.svActive ∧ cfgPid s.sv[c] = .ok () ∧ settling s.sv[c].st.clockState = false
          ∧ servoEval c s.ti[o] s.ts[n] (setSt c { s.sv[c].st with offset := s.ti[o] } s) = .ok u ∧ t = complete u true := by
  unfold exec execSvPid at h
  rw [command_next] at h
  rcases h with ⟨u, v, h, rfl⟩ | ⟨e, h, rfl⟩
  · simp only [bind_ok, needActive_ok, needWf_ok] at h
    obtain ⟨-, hc, -, -, ⟨⟩, hg, h⟩ := h
    refine .inr ?_
    split at h
    · rename_i hs
      simp only [pure_eq_ok, Prod.mk.injEq] at h
      obtain ⟨rfl, rfl⟩ := h
      exact .inl ⟨hc, hs, rfl⟩
    · rename_i hs
      simp only [bind_ok, pure_eq_ok, Prod.mk.injEq] at h
      obtain ⟨w, hw, rfl, rfl⟩ := h
      exact .inr ⟨w, hc, hg, by simpa using hs, hw, rfl⟩
  · refine .inl ⟨e, rfl, ?_⟩
    simp only [bind_error, needActive_error, needWf_error] at h
    rcases h with ⟨-, rfl⟩ | ⟨-, -, ⟨-, rfl⟩ | ⟨-, -, h | ⟨-, -, h⟩⟩⟩
    · simp
    · simp
    · simp [cfgPid_error _ _ h]
    · split at h
      · simp at h
      · simp only [bind_error, pure_ne_error, and_false, exists_false, or_false] at h
        rcases servoEval_error _ _ _ _ _ h with rfl | rfl <;> simp

/-- `SV.OFFSET` (R270). -/
theorem svOffset_next (c : CtxId) (a b : TsReg) (i : TiReg) (s t : State) (h : exec (.svOffset c a b i) s = .next t) :
    let x := s.sv[c]
    let m2s := oneWay s.ts[a] s.ts[b] (tiInt s i)
    let raw := m2s - knownDelay x.st
    let sampled := withSample x.st m2s s.ts[a] s.ts[b]
    (∃ e, t = takeError e s ∧ (e = .inactive ∨ e = .operand ∨ e = .cfg ∨ e = .discard ∨ e = .ovf))
      ∨ (c = s.svActive ∧ cfgPid x = .ok () ∧
          ((settling x.st.clockState = true ∧ fits64 m2s = true ∧ t = complete (setSt c sampled s) false)
            ∨ (settling x.st.clockState = false ∧ stepTest x m2s raw = true
                ∧ ∃ u, doStep c raw s.ts[a] (tiInt s i) s = .ok u ∧ t = complete u false)
            ∨ (settling x.st.clockState = false ∧ stepTest x m2s raw = false
                ∧ ∃ F, (fltStep x.flt[(1 : FltId)] (raw64 raw) = .ok (F, none) ∧ t = complete (setFlt c 1 F (setSt c sampled s)) false)
                    ∨ ∃ y u, fltStep x.flt[(1 : FltId)] (raw64 raw) = .ok (F, some y)
                        ∧ servoEval c y s.ts[b] (setSt c { sampled with offset := y } (setFlt c 1 F (setSt c sampled s))) = .ok u
                        ∧ t = complete u true))) := by
  intro x m2s raw sampled
  unfold exec execSvOffset at h
  rw [command_next] at h
  rcases h with ⟨u, v, h, rfl⟩ | ⟨e, h, rfl⟩
  · simp only [bind_ok, needActive_ok, needWf_ok, lifetimeCheck_ok] at h
    obtain ⟨-, hc, -, -, -, -, ⟨⟩, hg, -, -, -, -, h⟩ := h
    refine .inr ⟨hc, hg, ?_⟩
    split at h
    · rename_i hs
      simp only [bind_ok, ensure_ok, pure_eq_ok, Prod.mk.injEq] at h
      obtain ⟨-, hf, rfl, rfl⟩ := h
      exact .inl ⟨hs, hf, rfl⟩
    · rename_i hs
      have hs : settling x.st.clockState = false := Bool.eq_false_iff.mpr hs
      refine .inr ?_
      split at h
      · rename_i hst
        simp only [bind_ok, pure_eq_ok, Prod.mk.injEq] at h
        obtain ⟨w, hw, rfl, rfl⟩ := h
        exact .inl ⟨hs, hst, w, hw, rfl⟩
      · rename_i hst
        have hst : stepTest x m2s raw = false := Bool.eq_false_iff.mpr hst
        refine .inr ⟨hs, hst, ?_⟩
        rw [bind_ok] at h
        obtain ⟨⟨F, o⟩, hF, h⟩ := h
        refine ⟨F, ?_⟩
        cases o with
        | none =>
          simp only [pure_eq_ok, Prod.mk.injEq] at h
          obtain ⟨rfl, rfl⟩ := h
          exact .inl ⟨hF, rfl⟩
        | some y =>
          simp only [bind_ok, pure_eq_ok, Prod.mk.injEq] at h
          obtain ⟨w, hw, rfl, rfl⟩ := h
          exact .inr ⟨y, w, hF, hw, rfl⟩
  · refine .inl ⟨e, rfl, ?_⟩
    simp only [bind_error, needActive_error, needWf_error] at h
    rcases h with ⟨-, rfl⟩ | ⟨-, -, ⟨-, rfl⟩ | ⟨-, -, ⟨-, rfl⟩ | ⟨-, -, h | ⟨-, -, h | ⟨-, -, h | ⟨-, -, h⟩⟩⟩⟩⟩⟩
    · simp
    · simp
    · simp
    · simp [cfgPid_error _ _ h]
    · simp [lifetimeCheck_error _ _ h]
    · simp [monoCheck_error _ _ _ _ h]
    · split at h
      · simp only [bind_error, ensure_error, pure_ne_error, and_false, exists_false, or_false] at h
        simp [← h.2]
      · split at h
        · simp only [bind_error, pure_ne_error, and_false, exists_false, or_false] at h
          simp [doStep_error _ _ _ _ _ _ h]
        · rw [bind_error] at h
          rcases h with h | ⟨⟨F, o⟩, -, h⟩
          · rcases fltStep_error _ _ _ h with ⟨rfl, -⟩ | ⟨rfl, -⟩ <;> simp
          · cases o with
            | none => simp only [pure_ne_error] at h
            | some y =>
              simp only [bind_error, pure_ne_error, and_false, exists_false, or_false] at h
              rcases servoEval_error _ _ _ _ _ h with rfl | rfl <;> simp

/-- `SV.LOST` (R292). -/
theorem svLost_next (c : CtxId) (s t : State) (h : exec (.svLost c) s = .next t) :
    (∃ e, t = takeError e s ∧ (e = .inactive ∨ e = .cfg ∨ e = .ovf))
      ∨ (c = s.svActive ∧ s.sv[c].st.clockState.toNat ≤ 8 ∧ ∃ u, applyHoldover c s = .ok u
          ∧ t = complete (mirror c (eventIf (u.sv[c].st.clockState != 0) evStateChg
              (disarm (settleTimer c) (resetFilters c (setSt c (lostState u.sv[c].st) u))))) false) := by
  unfold exec execSvLost at h
  rw [command_next] at h
  rcases h with ⟨u, v, h, rfl⟩ | ⟨e, h, rfl⟩
  · simp only [bind_ok, needActive_ok, cfgState_ok, pure_eq_ok, Prod.mk.injEq] at h
    obtain ⟨-, hc, -, hg, w, hw, rfl, rfl⟩ := h
    exact .inr ⟨hc, hg, w, hw, rfl⟩
  · refine .inl ⟨e, rfl, ?_⟩
    simp only [bind_error, needActive_error, cfgState_error, pure_ne_error, and_false, exists_false, or_false] at h
    rcases h with ⟨-, rfl⟩ | ⟨-, -, ⟨-, rfl⟩ | ⟨-, -, h⟩⟩
    · simp
    · simp
    · simp [applyHoldover_error _ _ _ h]

end Sys2Proof.Machine
end

