-- ==== Sys2Proof/Laws/PerInstr.lean ====
section
/-! SUPPORT. For each constructor of `Instr`: its command word satisfies R103, field by field. The opcode is that of a row of R104, every
field the row does not use is zero, and every used field is in the range of its kind. -/

namespace Sys2Proof

/-- A 4-bit operand field is as R100 and R101 want it: zero when the row does not use it, in range when it does. -/
def Laws.fieldLegal (k : Option Kind) (v : BitVec 4) : Prop :=
  match k with
  | none => v = 0
  | some k => v.toNat < 2 ^ k.bits

/-- The fields satisfy R103 for a row of R104. -/
def Laws.fieldsLegal (r : OpRow) (f : Fields) : Prop :=
  f.op = r.op ∧ Laws.fieldLegal r.a f.a ∧ Laws.fieldLegal r.b f.b ∧ Laws.fieldLegal r.c f.c ∧ f.imm.toNat < 2 ^ r.imm.bits

/-- The instruction's word is legal for a row of the table. -/
def Laws.EncodeLegal.Statement (i : Instr) : Prop :=
  ∃ r ∈ opTable, Laws.fieldsLegal r (fieldsOf (encode i))

theorem Laws.field_lt {n : Nat} (x : Fin n) (h : n ≤ 16) : (field x).toNat < n := by
  have hx := x.isLt
  rw [field, BitVec.toNat_ofNat, Nat.mod_eq_of_lt (by omega)]
  exact hx

theorem Laws.immTi_lt (x : TiReg) : (immTi x).toNat < 8 := by
  have hx := x.isLt
  rw [immTi, BitVec.toNat_ofNat, Nat.mod_eq_of_lt (by omega)]
  exact hx

theorem Laws.noImm : (0 : BitVec 12).toNat < 2 ^ 0 := by decide

theorem Laws.flag_lt (b : Bool) : (if b then 1 else 0 : BitVec 4).toNat < 2 := by
  cases b <;> decide

theorem Laws.imm8_lt (v : BitVec 8) : (v.setWidth 12).toNat < 256 := by
  have hv := v.isLt
  rw [BitVec.toNat_setWidth]
  omega

theorem Laws.encodeLegal_of_fields (i : Instr) (r : OpRow) (hr : r ∈ opTable) (h : Laws.fieldsLegal r (encodeFields i)) :
    Laws.EncodeLegal.Statement i := by
  refine ⟨r, hr, ?_⟩
  unfold encode
  rw [fieldsOf_wordOf]
  exact h

theorem Laws.EncodeLegal.nop : Laws.EncodeLegal.Statement (.nop) :=
  Laws.encodeLegal_of_fields _ ⟨0x00, none, none, none, .unused⟩ (by decide) ⟨rfl, rfl, rfl, rfl, Laws.noImm⟩

theorem Laws.EncodeLegal.tiMov (dst src : TiReg) : Laws.EncodeLegal.Statement (.tiMov dst src) :=
  Laws.encodeLegal_of_fields _ ⟨0x01, some .ti, some .ti, none, .unused⟩ (by decide) ⟨rfl, Laws.field_lt _ (by decide), Laws.field_lt _ (by decide), rfl, Laws.noImm⟩

theorem Laws.EncodeLegal.tiAdd (dst src1 src2 : TiReg) : Laws.EncodeLegal.Statement (.tiAdd dst src1 src2) :=
  Laws.encodeLegal_of_fields _ ⟨0x02, some .ti, some .ti, some .ti, .unused⟩ (by decide) ⟨rfl, Laws.field_lt _ (by decide), Laws.field_lt _ (by decide), Laws.field_lt _ (by decide), Laws.noImm⟩

theorem Laws.EncodeLegal.tiSub (dst src1 src2 : TiReg) : Laws.EncodeLegal.Statement (.tiSub dst src1 src2) :=
  Laws.encodeLegal_of_fields _ ⟨0x03, some .ti, some .ti, some .ti, .unused⟩ (by decide) ⟨rfl, Laws.field_lt _ (by decide), Laws.field_lt _ (by decide), Laws.field_lt _ (by decide), Laws.noImm⟩

theorem Laws.EncodeLegal.tiNeg (dst src : TiReg) : Laws.EncodeLegal.Statement (.tiNeg dst src) :=
  Laws.encodeLegal_of_fields _ ⟨0x04, some .ti, some .ti, none, .unused⟩ (by decide) ⟨rfl, Laws.field_lt _ (by decide), Laws.field_lt _ (by decide), rfl, Laws.noImm⟩

theorem Laws.EncodeLegal.tiAbs (dst src : TiReg) : Laws.EncodeLegal.Statement (.tiAbs dst src) :=
  Laws.encodeLegal_of_fields _ ⟨0x05, some .ti, some .ti, none, .unused⟩ (by decide) ⟨rfl, Laws.field_lt _ (by decide), Laws.field_lt _ (by decide), rfl, Laws.noImm⟩

theorem Laws.EncodeLegal.tiHalf (dst src : TiReg) : Laws.EncodeLegal.Statement (.tiHalf dst src) :=
  Laws.encodeLegal_of_fields _ ⟨0x06, some .ti, some .ti, none, .unused⟩ (by decide) ⟨rfl, Laws.field_lt _ (by decide), Laws.field_lt _ (by decide), rfl, Laws.noImm⟩

theorem Laws.EncodeLegal.tiFromNs (dst src : TiReg) : Laws.EncodeLegal.Statement (.tiFromNs dst src) :=
  Laws.encodeLegal_of_fields _ ⟨0x07, some .ti, some .ti, none, .unused⟩ (by decide) ⟨rfl, Laws.field_lt _ (by decide), Laws.field_lt _ (by decide), rfl, Laws.noImm⟩

theorem Laws.EncodeLegal.tiToNs (dst src : TiReg) : Laws.EncodeLegal.Statement (.tiToNs dst src) :=
  Laws.encodeLegal_of_fields _ ⟨0x08, some .ti, some .ti, none, .unused⟩ (by decide) ⟨rfl, Laws.field_lt _ (by decide), Laws.field_lt _ (by decide), rfl, Laws.noImm⟩

theorem Laws.EncodeLegal.tiCmp (src1 src2 : TiReg) : Laws.EncodeLegal.Statement (.tiCmp src1 src2) :=
  Laws.encodeLegal_of_fields _ ⟨0x09, none, some .ti, some .ti, .unused⟩ (by decide) ⟨rfl, rfl, Laws.field_lt _ (by decide), Laws.field_lt _ (by decide), Laws.noImm⟩

theorem Laws.EncodeLegal.tiMulI (dst src : TiReg) (imm : BitVec 12) : Laws.EncodeLegal.Statement (.tiMulI dst src imm) :=
  Laws.encodeLegal_of_fields _ ⟨0x0A, some .ti, some .ti, none, .imm12⟩ (by decide) ⟨rfl, Laws.field_lt _ (by decide), Laws.field_lt _ (by decide), rfl, BitVec.isLt _⟩

theorem Laws.EncodeLegal.tiDivI (dst src : TiReg) (imm : BitVec 12) : Laws.EncodeLegal.Statement (.tiDivI dst src imm) :=
  Laws.encodeLegal_of_fields _ ⟨0x0B, some .ti, some .ti, none, .imm12⟩ (by decide) ⟨rfl, Laws.field_lt _ (by decide), Laws.field_lt _ (by decide), rfl, BitVec.isLt _⟩

theorem Laws.EncodeLegal.tsMov (dst src : TsReg) : Laws.EncodeLegal.Statement (.tsMov dst src) :=
  Laws.encodeLegal_of_fields _ ⟨0x10, some .ts, some .ts, none, .unused⟩ (by decide) ⟨rfl, Laws.field_lt _ (by decide), Laws.field_lt _ (by decide), rfl, Laws.noImm⟩

theorem Laws.EncodeLegal.tsSub (dst : TiReg) (src1 src2 : TsReg) : Laws.EncodeLegal.Statement (.tsSub dst src1 src2) :=
  Laws.encodeLegal_of_fields _ ⟨0x11, some .ti, some .ts, some .ts, .unused⟩ (by decide) ⟨rfl, Laws.field_lt _ (by decide), Laws.field_lt _ (by decide), Laws.field_lt _ (by decide), Laws.noImm⟩

theorem Laws.EncodeLegal.tsAddI (dst src : TsReg) (val : TiReg) : Laws.EncodeLegal.Statement (.tsAddI dst src val) :=
  Laws.encodeLegal_of_fields _ ⟨0x12, some .ts, some .ts, some .ti, .unused⟩ (by decide) ⟨rfl, Laws.field_lt _ (by decide), Laws.field_lt _ (by decide), Laws.field_lt _ (by decide), Laws.noImm⟩

theorem Laws.EncodeLegal.tsDiffC (dst : TiReg) (src1 src2 : TsReg) (corr : TiReg) : Laws.EncodeLegal.Statement (.tsDiffC dst src1 src2 corr) :=
  Laws.encodeLegal_of_fields _ ⟨0x13, some .ti, some .ts, some .ts, .ti3⟩ (by decide) ⟨rfl, Laws.field_lt _ (by decide), Laws.field_lt _ (by decide), Laws.field_lt _ (by decide), Laws.immTi_lt _⟩

theorem Laws.EncodeLegal.fltReset (ctx : CtxId) (flt : FltId) : Laws.EncodeLegal.Statement (.fltReset ctx flt) :=
  Laws.encodeLegal_of_fields _ ⟨0x20, some .ctx, some .flt, none, .unused⟩ (by decide) ⟨rfl, Laws.field_lt _ (by decide), Laws.field_lt _ (by decide), rfl, Laws.noImm⟩

theorem Laws.EncodeLegal.fltStep (ctx : CtxId) (flt : FltId) (src dst : TiReg) : Laws.EncodeLegal.Statement (.fltStep ctx flt src dst) :=
  Laws.encodeLegal_of_fields _ ⟨0x21, some .ctx, some .flt, some .ti, .ti3⟩ (by decide) ⟨rfl, Laws.field_lt _ (by decide), Laws.field_lt _ (by decide), Laws.field_lt _ (by decide), Laws.immTi_lt _⟩

theorem Laws.EncodeLegal.svReset (ctx : CtxId) : Laws.EncodeLegal.Statement (.svReset ctx) :=
  Laws.encodeLegal_of_fields _ ⟨0x30, some .ctx, none, none, .unused⟩ (by decide) ⟨rfl, Laws.field_lt _ (by decide), rfl, rfl, Laws.noImm⟩

theorem Laws.EncodeLegal.svDelay (ctx : CtxId) (send recv : TsReg) (corr : TiReg) : Laws.EncodeLegal.Statement (.svDelay ctx send recv corr) :=
  Laws.encodeLegal_of_fields _ ⟨0x31, some .ctx, some .ts, some .ts, .ti3⟩ (by decide) ⟨rfl, Laws.field_lt _ (by decide), Laws.field_lt _ (by decide), Laws.field_lt _ (by decide), Laws.immTi_lt _⟩

theorem Laws.EncodeLegal.svOffset (ctx : CtxId) (send recv : TsReg) (corr : TiReg) : Laws.EncodeLegal.Statement (.svOffset ctx send recv corr) :=
  Laws.encodeLegal_of_fields _ ⟨0x32, some .ctx, some .ts, some .ts, .ti3⟩ (by decide) ⟨rfl, Laws.field_lt _ (by decide), Laws.field_lt _ (by decide), Laws.field_lt _ (by decide), Laws.immTi_lt _⟩

theorem Laws.EncodeLegal.svPid (ctx : CtxId) (off : TiReg) (now : TsReg) : Laws.EncodeLegal.Statement (.svPid ctx off now) :=
  Laws.encodeLegal_of_fields _ ⟨0x33, some .ctx, some .ti, some .ts, .unused⟩ (by decide) ⟨rfl, Laws.field_lt _ (by decide), Laws.field_lt _ (by decide), Laws.field_lt _ (by decide), Laws.noImm⟩

theorem Laws.EncodeLegal.svSwitch : Laws.EncodeLegal.Statement (.svSwitch) :=
  Laws.encodeLegal_of_fields _ ⟨0x34, none, none, none, .unused⟩ (by decide) ⟨rfl, rfl, rfl, rfl, Laws.noImm⟩

theorem Laws.EncodeLegal.svLost (ctx : CtxId) : Laws.EncodeLegal.Statement (.svLost ctx) :=
  Laws.encodeLegal_of_fields _ ⟨0x35, some .ctx, none, none, .unused⟩ (by decide) ⟨rfl, Laws.field_lt _ (by decide), rfl, rfl, Laws.noImm⟩

theorem Laws.EncodeLegal.svStat (ctx : CtxId) : Laws.EncodeLegal.Statement (.svStat ctx) :=
  Laws.encodeLegal_of_fields _ ⟨0x36, some .ctx, none, none, .unused⟩ (by decide) ⟨rfl, Laws.field_lt _ (by decide), rfl, rfl, Laws.noImm⟩

theorem Laws.EncodeLegal.pkHdr : Laws.EncodeLegal.Statement (.pkHdr) :=
  Laws.encodeLegal_of_fields _ ⟨0x40, none, none, none, .unused⟩ (by decide) ⟨rfl, rfl, rfl, rfl, Laws.noImm⟩

theorem Laws.EncodeLegal.upHdr : Laws.EncodeLegal.Statement (.upHdr) :=
  Laws.encodeLegal_of_fields _ ⟨0x41, none, none, none, .unused⟩ (by decide) ⟨rfl, rfl, rfl, rfl, Laws.noImm⟩

theorem Laws.EncodeLegal.pkTs (src : TsReg) : Laws.EncodeLegal.Statement (.pkTs src) :=
  Laws.encodeLegal_of_fields _ ⟨0x42, none, some .ts, none, .unused⟩ (by decide) ⟨rfl, rfl, Laws.field_lt _ (by decide), rfl, Laws.noImm⟩

theorem Laws.EncodeLegal.upTs (dst : TsReg) : Laws.EncodeLegal.Statement (.upTs dst) :=
  Laws.encodeLegal_of_fields _ ⟨0x43, some .ts, none, none, .unused⟩ (by decide) ⟨rfl, Laws.field_lt _ (by decide), rfl, rfl, Laws.noImm⟩

theorem Laws.EncodeLegal.pkPd (src : TsReg) (pid : PidReg) : Laws.EncodeLegal.Statement (.pkPd src pid) :=
  Laws.encodeLegal_of_fields _ ⟨0x44, none, some .ts, some .pid, .unused⟩ (by decide) ⟨rfl, rfl, Laws.field_lt _ (by decide), Laws.field_lt _ (by decide), Laws.noImm⟩

theorem Laws.EncodeLegal.upPd (dst : TsReg) (pid : PidReg) : Laws.EncodeLegal.Statement (.upPd dst pid) :=
  Laws.encodeLegal_of_fields _ ⟨0x45, some .ts, none, some .pid, .unused⟩ (by decide) ⟨rfl, Laws.field_lt _ (by decide), rfl, Laws.field_lt _ (by decide), Laws.noImm⟩

theorem Laws.EncodeLegal.pkAnn (origin : TsReg) : Laws.EncodeLegal.Statement (.pkAnn origin) :=
  Laws.encodeLegal_of_fields _ ⟨0x46, none, some .ts, none, .unused⟩ (by decide) ⟨rfl, rfl, Laws.field_lt _ (by decide), rfl, Laws.noImm⟩

theorem Laws.EncodeLegal.upAnn (dst : TsReg) : Laws.EncodeLegal.Statement (.upAnn dst) :=
  Laws.encodeLegal_of_fields _ ⟨0x47, some .ts, none, none, .unused⟩ (by decide) ⟨rfl, Laws.field_lt _ (by decide), rfl, rfl, Laws.noImm⟩

theorem Laws.EncodeLegal.pkSig (pid : PidReg) : Laws.EncodeLegal.Statement (.pkSig pid) :=
  Laws.encodeLegal_of_fields _ ⟨0x48, none, none, some .pid, .unused⟩ (by decide) ⟨rfl, rfl, rfl, Laws.field_lt _ (by decide), Laws.noImm⟩

theorem Laws.EncodeLegal.upSig (pid : PidReg) : Laws.EncodeLegal.Statement (.upSig pid) :=
  Laws.encodeLegal_of_fields _ ⟨0x49, none, none, some .pid, .unused⟩ (by decide) ⟨rfl, rfl, rfl, Laws.field_lt _ (by decide), Laws.noImm⟩

theorem Laws.EncodeLegal.pkTlv : Laws.EncodeLegal.Statement (.pkTlv) :=
  Laws.encodeLegal_of_fields _ ⟨0x4A, none, none, none, .unused⟩ (by decide) ⟨rfl, rfl, rfl, rfl, Laws.noImm⟩

theorem Laws.EncodeLegal.upTlv : Laws.EncodeLegal.Statement (.upTlv) :=
  Laws.encodeLegal_of_fields _ ⟨0x4B, none, none, none, .unused⟩ (by decide) ⟨rfl, rfl, rfl, rfl, Laws.noImm⟩

theorem Laws.EncodeLegal.ccFreq (ratio : TiReg) (dom : Domain) : Laws.EncodeLegal.Statement (.ccFreq ratio dom) :=
  Laws.encodeLegal_of_fields _ ⟨0x50, none, some .ti, none, .imm8⟩ (by decide) ⟨rfl, rfl, Laws.field_lt _ (by decide), rfl, Laws.imm8_lt _⟩

theorem Laws.EncodeLegal.ccSetTime (time : TsReg) (dom : Domain) : Laws.EncodeLegal.Statement (.ccSetTime time dom) :=
  Laws.encodeLegal_of_fields _ ⟨0x51, none, some .ts, none, .imm8⟩ (by decide) ⟨rfl, rfl, Laws.field_lt _ (by decide), rfl, Laws.imm8_lt _⟩

theorem Laws.EncodeLegal.ccDelta (delta : TiReg) (dom : Domain) : Laws.EncodeLegal.Statement (.ccDelta delta dom) :=
  Laws.encodeLegal_of_fields _ ⟨0x52, none, some .ti, none, .imm8⟩ (by decide) ⟨rfl, rfl, Laws.field_lt _ (by decide), rfl, Laws.imm8_lt _⟩

theorem Laws.EncodeLegal.ccPhase (ns : TiReg) (dom : Domain) : Laws.EncodeLegal.Statement (.ccPhase ns dom) :=
  Laws.encodeLegal_of_fields _ ⟨0x53, none, some .ti, none, .imm8⟩ (by decide) ⟨rfl, rfl, Laws.field_lt _ (by decide), rfl, Laws.imm8_lt _⟩

theorem Laws.EncodeLegal.ccGetTime (dst : TsReg) (dom : Domain) : Laws.EncodeLegal.Statement (.ccGetTime dst dom) :=
  Laws.encodeLegal_of_fields _ ⟨0x54, some .ts, none, none, .imm8⟩ (by decide) ⟨rfl, Laws.field_lt _ (by decide), rfl, rfl, Laws.imm8_lt _⟩

theorem Laws.EncodeLegal.tmInit (tmr : TmrId) (inst : BitVec 8) : Laws.EncodeLegal.Statement (.tmInit tmr inst) :=
  Laws.encodeLegal_of_fields _ ⟨0x60, some .tmr, none, none, .imm8⟩ (by decide) ⟨rfl, Laws.field_lt _ (by decide), rfl, rfl, Laws.imm8_lt _⟩

theorem Laws.EncodeLegal.tmStart (tmr : TmrId) (ticks : TiReg) (rep : Bool) : Laws.EncodeLegal.Statement (.tmStart tmr ticks rep) :=
  Laws.encodeLegal_of_fields _ ⟨0x61, some .tmr, some .ti, some .flag, .unused⟩ (by decide) ⟨rfl, Laws.field_lt _ (by decide), Laws.field_lt _ (by decide), Laws.flag_lt rep, Laws.noImm⟩

theorem Laws.EncodeLegal.tmStop (tmr : TmrId) : Laws.EncodeLegal.Statement (.tmStop tmr) :=
  Laws.encodeLegal_of_fields _ ⟨0x62, some .tmr, none, none, .unused⟩ (by decide) ⟨rfl, Laws.field_lt _ (by decide), rfl, rfl, Laws.noImm⟩

theorem Laws.EncodeLegal.tmTick (now : TiReg) : Laws.EncodeLegal.Statement (.tmTick now) :=
  Laws.encodeLegal_of_fields _ ⟨0x63, none, some .ti, none, .unused⟩ (by decide) ⟨rfl, rfl, Laws.field_lt _ (by decide), rfl, Laws.noImm⟩

theorem Laws.EncodeLegal.sysReset : Laws.EncodeLegal.Statement (.sysReset) :=
  Laws.encodeLegal_of_fields _ ⟨0x7F, none, none, none, .unused⟩ (by decide) ⟨rfl, rfl, rfl, rfl, Laws.noImm⟩

end Sys2Proof
end

