-- ==== Sys2Proof/Tests/Slice0.lean ====
section
/-! SUPPORT. The model's own tests. Expected values come from spec/95_test_vectors.md (the vector's id stands at the test) or from hand
calculation with the rule named. After them, for every statement with hypotheses, states that meet them. -/

namespace Sys2Proof.Machine

/-! Helpers: a state after a few host writes, one command on it, what CSRs and bytes read afterwards. -/

/-- The state after reset with `TICK_US = 10000` (the vectors' parameter) and some CSRs written by the host. -/
def start (ws : List (Nat × Nat)) : State :=
  ws.foldl (fun s p => csrWrite (BitVec.ofNat 12 p.1) (BitVec.ofNat 64 p.2) s)
    { State.reset with inputs := { State.reset.inputs with tickUsPred := 9999 } }

/-- The same with bytes of `BUF` stored. -/
def poke (off : Nat) (bs : List Byte) (s : State) : State := { s with buf := writeBytes s.buf off bs }

/-- The same with the header marked as packed, as `PK.HDR` leaves it. -/
def packed (s : State) : State := { s with win := { s.win with hdrPacked := true } }

/-- Whether the CSRs read these values. -/
def reads (t : State) (rs : List (Nat × Nat)) : Bool :=
  rs.all fun p => csrValue t (BitVec.ofNat 12 p.1) == BitVec.ofNat 64 p.2

/-- Whether `BUF` holds these bytes from an offset on. -/
def holds (t : State) (off : Nat) (bs : List Byte) : Bool := readBytes t.buf off bs.length == bs

/-- One step: the host writes the word to `CMD`; then a test of the state it leaves. -/
def after (s : State) (w : Nat) (p : State → Bool) : Bool :=
  match step (s.withFetchWord 32 w) with
  | .next t => p t
  | _ => false

/-- One command; then a test of the state it leaves. -/
def ends (i : Instr) (s : State) (p : State → Bool) : Bool :=
  match exec i s with
  | .next t => p t
  | _ => false

theorem answers_of_ends {i : Instr} {s : State} {p : State → Bool} (h : ends i s p = true) : ∃ t, Answers i s t ∧ p t = true := by
  unfold ends at h
  split at h
  · rename_i t ht
    exact ⟨t, ht, h⟩
  · simp at h

/-! WellFormed: one ill-formed word for each check of R103, and words the other two checks accept. -/

theorem test_wf_reserved_opcode : wellFormedWord 0x0C000000 = false := by decide
theorem test_wf_stray_bit : wellFormedWord 0x01011000 = false := by decide
theorem test_wf_operand_range : wellFormedWord 0x02801000 = false := by decide
theorem test_wf_unused_check : (⟨0x01, some .ti, some .ti, none, .unused⟩ : OpRow).opMatches 0x01011000 = true
    ∧ (⟨0x01, some .ti, some .ti, none, .unused⟩ : OpRow).operandsInRange 0x01011000 = true
    ∧ (⟨0x01, some .ti, some .ti, none, .unused⟩ : OpRow).unusedClear 0x01011000 = false := by decide
theorem test_wf_range_check : (⟨0x02, some .ti, some .ti, some .ti, .unused⟩ : OpRow).opMatches 0x02801000 = true
    ∧ (⟨0x02, some .ti, some .ti, some .ti, .unused⟩ : OpRow).unusedClear 0x02801000 = true
    ∧ (⟨0x02, some .ti, some .ti, some .ti, .unused⟩ : OpRow).operandsInRange 0x02801000 = false := by decide
theorem test_wf_imm_bits : wellFormedWord 0x13010008 = false ∧ wellFormedWord 0x60200100 = false ∧ wellFormedWord 0x61202000 = false := by
  decide
theorem test_wf_accepts : wellFormedWord 0x02201000 = true ∧ wellFormedWord 0x0A010FFF = true ∧ wellFormedWord 0x00000000 = true := by
  decide
/-- The masks of spec/30_encoding.md for `TI.ADD`, `FLT.STEP`, `SV.OFFSET` and `TM.START` (TI-40, FL-20, SV-71, TM-26). -/
theorem test_wf_masks : (opTable.filter fun r => r.op == 0x02 || r.op == 0x21 || r.op == 0x32 || r.op == 0x61).map (fun r => r.mask)
    = [0xFF888FFF, 0xFFEE8FF8, 0xFFECCFF8, 0xFF88EFFF] := by decide

/-! Decoding: one word per command, written out from R100 and the row of R104. -/

theorem test_decode_nop : decode 0x00000000 = some (.nop) := by decide
theorem test_decode_tiMov : decode 0x01350000 = some (.tiMov 3 5) := by decide
theorem test_decode_tiAdd : decode 0x02746000 = some (.tiAdd 7 4 6) := by decide
theorem test_decode_tiSub : decode 0x03012000 = some (.tiSub 0 1 2) := by decide
theorem test_decode_tiNeg : decode 0x04620000 = some (.tiNeg 6 2) := by decide
theorem test_decode_tiAbs : decode 0x05170000 = some (.tiAbs 1 7) := by decide
theorem test_decode_tiHalf : decode 0x06540000 = some (.tiHalf 5 4) := by decide
theorem test_decode_tiFromNs : decode 0x07230000 = some (.tiFromNs 2 3) := by decide
theorem test_decode_tiToNs : decode 0x08760000 = some (.tiToNs 7 6) := by decide
theorem test_decode_tiCmp : decode 0x09045000 = some (.tiCmp 4 5) := by decide
theorem test_decode_tiMulI : decode 0x0A120ABC = some (.tiMulI 1 2 0xABC) := by decide
theorem test_decode_tiDivI : decode 0x0B340001 = some (.tiDivI 3 4 1) := by decide
theorem test_decode_tsMov : decode 0x10310000 = some (.tsMov 3 1) := by decide
theorem test_decode_tsSub : decode 0x11723000 = some (.tsSub 7 2 3) := by decide
theorem test_decode_tsAddI : decode 0x12316000 = some (.tsAddI 3 1 6) := by decide
theorem test_decode_tsDiffC : decode 0x13523004 = some (.tsDiffC 5 2 3 4) := by decide
theorem test_decode_fltReset : decode 0x20100000 = some (.fltReset 1 0) := by decide
theorem test_decode_fltStep : decode 0x21016007 = some (.fltStep 0 1 6 7) := by decide
theorem test_decode_svReset : decode 0x30100000 = some (.svReset 1) := by decide
theorem test_decode_svDelay : decode 0x31123005 = some (.svDelay 1 2 3 5) := by decide
theorem test_decode_svOffset : decode 0x32031006 = some (.svOffset 0 3 1 6) := by decide
theorem test_decode_svPid : decode 0x33172000 = some (.svPid 1 7 2) := by decide
theorem test_decode_svSwitch : decode 0x34000000 = some (.svSwitch) := by decide
theorem test_decode_svLost : decode 0x35100000 = some (.svLost 1) := by decide
theorem test_decode_svStat : decode 0x36100000 = some (.svStat 1) := by decide
theorem test_decode_pkHdr : decode 0x40000000 = some (.pkHdr) := by decide
theorem test_decode_upHdr : decode 0x41000000 = some (.upHdr) := by decide
theorem test_decode_pkTs : decode 0x42030000 = some (.pkTs 3) := by decide
theorem test_decode_upTs : decode 0x43200000 = some (.upTs 2) := by decide
theorem test_decode_pkPd : decode 0x44021000 = some (.pkPd 2 1) := by decide
theorem test_decode_upPd : decode 0x45301000 = some (.upPd 3 1) := by decide
theorem test_decode_pkAnn : decode 0x46020000 = some (.pkAnn 2) := by decide
theorem test_decode_upAnn : decode 0x47300000 = some (.upAnn 3) := by decide
theorem test_decode_pkSig : decode 0x48001000 = some (.pkSig 1) := by decide
theorem test_decode_upSig : decode 0x49001000 = some (.upSig 1) := by decide
theorem test_decode_pkTlv : decode 0x4A000000 = some (.pkTlv) := by decide
theorem test_decode_upTlv : decode 0x4B000000 = some (.upTlv) := by decide
theorem test_decode_ccFreq : decode 0x500500FF = some (.ccFreq 5 0xFF) := by decide
theorem test_decode_ccSetTime : decode 0x51020007 = some (.ccSetTime 2 7) := by decide
theorem test_decode_ccDelta : decode 0x52060080 = some (.ccDelta 6 0x80) := by decide
theorem test_decode_ccPhase : decode 0x53040001 = some (.ccPhase 4 1) := by decide
theorem test_decode_ccGetTime : decode 0x54300002 = some (.ccGetTime 3 2) := by decide
theorem test_decode_tmInit : decode 0x605000AB = some (.tmInit 5 0xAB) := by decide
theorem test_decode_tmStart : decode 0x61731000 = some (.tmStart 7 3 true) := by decide
theorem test_decode_tmStop : decode 0x62600000 = some (.tmStop 6) := by decide
theorem test_decode_tmTick : decode 0x63050000 = some (.tmTick 5) := by decide
theorem test_decode_sysReset : decode 0x7F000000 = some (.sysReset) := by decide

/-- The illegal forms of spec/95_test_vectors.md. -/
theorem test_decode_illegal :
    [0x02801000, 0x01011000, 0x09101000, 0x06010001, 0x0C000000, 0x10400000, 0x11081000, 0x13010008, 0x61202000, 0x60800000, 0x60200100,
     0x63100000, 0x21020000, 0x21200000, 0x20011000, 0x40100000, 0x42040000, 0x44002000, 0x4B000001, 0x4C000000, 0x32201002, 0x32041002,
     0x33001001, 0x34100000, 0x37000000, 0x50010100, 0x51040000, 0x54300102, 0x55000000, 0x00000001, 0xFF000000, 0x7F000001].all
      (fun w : CommandWord => (decode w).isNone) = true := by decide

/-! One step. CSR numbers are those of R44. -/

/-- SY-1. -/
theorem test_nop_counts :
    after (start []) 0x00000000 (fun t => reads t [(0x001, 0x1), (0x005, 0x1), (0x000, 0x0)]) = true := by
  decide

/-- SY-3: `E_ILLEGAL`, counted, kept in `CMD`. -/
theorem test_illegal_word :
    after (start []) 0xFF000000 (fun t => reads t [(0x001, 0x100), (0x005, 0x1), (0x000, 0xff000000)]) = true := by
  decide

/-- R131. -/
theorem test_tiMov_copies :
    after (start [(0x011, 0x5)]) 0x01010000 (fun t => reads t [(0x010, 0x5), (0x001, 0x1)]) = true := by
  decide

/-- TI-2. -/
theorem test_tiAdd_overflow :
    after (start [(0x010, 0x7fffffffffffffff), (0x011, 0x1)]) 0x02201000 (fun t => reads t [(0x012, 0x0), (0x001, 0x200)]) = true := by
  decide

/-- TI-4. -/
theorem test_tiAdd_ends :
    after (start [(0x010, 0x7fffffffffffffff), (0x011, 0x8000000000000000)]) 0x02201000 (fun t => reads t [(0x012, 0xffffffffffffffff), (0x001, 0x1)]) = true := by
  decide

/-- TI-7. -/
theorem test_tiSub_overflow :
    after (start [(0x011, 0x8000000000000000)]) 0x03201000 (fun t => reads t [(0x012, 0x0), (0x001, 0x200)]) = true := by
  decide

/-- TI-9. -/
theorem test_tiSub_lowest :
    after (start [(0x010, 0xffffffffffffffff), (0x011, 0x7fffffffffffffff)]) 0x03201000 (fun t => reads t [(0x012, 0x8000000000000000), (0x001, 0x1)]) = true := by
  decide

/-- TI-10. -/
theorem test_tiNeg_overflow :
    after (start [(0x011, 0x8000000000000000)]) 0x04010000 (fun t => reads t [(0x010, 0x0), (0x001, 0x200)]) = true := by
  decide

/-- TI-11. -/
theorem test_tiNeg_largest :
    after (start [(0x011, 0x7fffffffffffffff)]) 0x04010000 (fun t => reads t [(0x010, 0x8000000000000001), (0x001, 0x1)]) = true := by
  decide

/-- TI-13. -/
theorem test_tiAbs_overflow :
    after (start [(0x011, 0x8000000000000000)]) 0x05010000 (fun t => reads t [(0x010, 0x0), (0x001, 0x200)]) = true := by
  decide

/-- TI-14. -/
theorem test_tiAbs_negative :
    after (start [(0x011, 0x8000000000000001)]) 0x05010000 (fun t => reads t [(0x010, 0x7fffffffffffffff), (0x001, 0x1)]) = true := by
  decide

/-- TI-16. -/
theorem test_tiHalf_toward_zero :
    after (start [(0x011, 0xfffffffffffffffd)]) 0x06010000 (fun t => reads t [(0x010, 0xffffffffffffffff), (0x001, 0x1)]) = true := by
  decide

/-- TI-18. -/
theorem test_tiHalf_lowest :
    after (start [(0x011, 0x8000000000000000)]) 0x06010000 (fun t => reads t [(0x010, 0xc000000000000000), (0x001, 0x1)]) = true := by
  decide

/-- TI-19. -/
theorem test_tiFromNs_overflow :
    after (start [(0x011, 0x800000000000)]) 0x07010000 (fun t => reads t [(0x010, 0x0), (0x001, 0x200)]) = true := by
  decide

/-- TI-22. -/
theorem test_tiFromNs_negative :
    after (start [(0x011, 0xfffffffffffffda8)]) 0x07010000 (fun t => reads t [(0x010, 0xfffffffffda80000), (0x001, 0x1)]) = true := by
  decide

/-- TI-24. -/
theorem test_tiToNs_floor :
    after (start [(0x011, 0xfffffffffffe8000)]) 0x08010000 (fun t => reads t [(0x010, 0xfffffffffffffffe), (0x001, 0x1)]) = true := by
  decide

/-- TI-26. -/
theorem test_tiToNs_lowest :
    after (start [(0x011, 0x8000000000000000)]) 0x08010000 (fun t => reads t [(0x010, 0xffff800000000000), (0x001, 0x1)]) = true := by
  decide

/-- TI-29. -/
theorem test_tiCmp_signed :
    after (start [(0x010, 0x8000000000000000), (0x011, 0x7fffffffffffffff)]) 0x09001000 (fun t => reads t [(0x001, 0x5)]) = true := by
  decide

/-- TI-30. -/
theorem test_tiCmp_equal :
    after (start [(0x012, 0xfffffffffffffffb)]) 0x09022000 (fun t => reads t [(0x001, 0x9)]) = true := by
  decide

/-- TI-32. -/
theorem test_tiMulI_overflow :
    after (start [(0x011, 0x10000000000000)]) 0x0A010FFF (fun t => reads t [(0x010, 0x0), (0x001, 0x200)]) = true := by
  decide

/-- TI-34. -/
theorem test_tiMulI_negative :
    after (start [(0x011, 0xfff8000000000000)]) 0x0A010FFF (fun t => reads t [(0x010, 0x8008000000000000), (0x001, 0x1)]) = true := by
  decide

/-- TI-35. -/
theorem test_tiDivI_zero :
    after (start [(0x011, 0x7)]) 0x0B010000 (fun t => reads t [(0x010, 0x0), (0x001, 0x300)]) = true := by
  decide

/-- TI-39. -/
theorem test_tiDivI_toward_zero :
    after (start [(0x011, 0x8000000000000000)]) 0x0B010FFF (fun t => reads t [(0x010, 0xfff7ff7ff7ff7ff8), (0x001, 0x1)]) = true := by
  decide

/-- TS-17. -/
theorem test_tsMov_unchecked :
    after (start [(0x021, 0x1), (0x020, 0xffffffff00000005)]) 0x10300000 (fun t => reads t [(0x027, 0x1), (0x026, 0xffffffff00000005), (0x001, 0x1)]) = true := by
  decide

/-- TS-5. -/
theorem test_tsSub_largest :
    after (start [(0x023, 0x225c1), (0x022, 0x1d1bb5ff0000ffff)]) 0x11010000 (fun t => reads t [(0x010, 0x7fffffffffffffff), (0x001, 0x1)]) = true := by
  decide

/-- TS-8. -/
theorem test_tsSub_overflow :
    after (start [(0x023, 0x225c1), (0x022, 0x1d1bb60000000001)]) 0x11001000 (fun t => reads t [(0x010, 0x0), (0x001, 0x200)]) = true := by
  decide

/-- TS-12. -/
theorem test_tsAddI_carries :
    after (start [(0x021, 0xffffffff), (0x020, 0x3b9ac9ff0000ffff), (0x010, 0x1)]) 0x12000000 (fun t => reads t [(0x021, 0x100000000), (0x020, 0x0), (0x001, 0x1)]) = true := by
  decide

/-- TS-14. -/
theorem test_tsAddI_beyond_axis :
    after (start [(0x021, 0xffffffffffff), (0x020, 0x3b9ac9ff0000ffff), (0x010, 0x1)]) 0x12200000 (fun t => reads t [(0x025, 0x0), (0x024, 0x0), (0x001, 0x200)]) = true := by
  decide

/-- TS-19: the difference fits, the corrected one does not. -/
theorem test_tsDiffC_second_step :
    after (start [(0x023, 0x225c1), (0x022, 0x1d1bb5ff0000ffff), (0x013, 0xffffffffffffffff)]) 0x13010003 (fun t => reads t [(0x010, 0x0), (0x001, 0x200)]) = true := by
  decide

/-- TS-21. -/
theorem test_tsDiffC_corrected :
    after (start [(0x023, 0x64), (0x022, 0x1f400000000), (0x021, 0x64), (0x020, 0x38400000000), (0x013, 0x640000)]) 0x13010003 (fun t => reads t [(0x010, 0xfffffffffe0c0000), (0x001, 0x1)]) = true := by
  decide

/-- FL-18. -/
theorem test_fltReset_keeps_config :
    after (start [(0x130, 0x1), (0x131, 0x4), (0x132, 0x2), (0x133, 0xb), (0x134, 0x3), (0x135, 0xfffffffffffffffc), (0x136, 0x9), (0x137, 0x6)]) 0x20000000 (fun t => reads t [(0x130, 0x1), (0x131, 0x4), (0x132, 0x2), (0x133, 0x0), (0x134, 0x0), (0x135, 0x0), (0x136, 0x0), (0x137, 0x0), (0x001, 0x1)]) = true := by
  decide

/-- FL-17: source and destination are one register. -/
theorem test_fltStep_inactive_context :
    after (start [(0x171, 0x2), (0x171, 0x2), (0x013, 0x32)]) 0x21103003 (fun t => reads t [(0x013, 0x32), (0x173, 0x32), (0x174, 0x1), (0x001, 0x3)]) = true := by
  decide

/-- FL-16: the period shrunk below the stored count. -/
theorem test_fltStep_window_ends :
    after (start [(0x138, 0x1), (0x139, 0x2), (0x13A, 0x2), (0x13C, 0x5), (0x13D, 0x3), (0x13E, 0x9), (0x13F, 0x1e), (0x010, 0x4)]) 0x21010001 (fun t => reads t [(0x011, 0x3), (0x13B, 0x3), (0x13C, 0x0), (0x13F, 0x0), (0x001, 0x3)]) = true := by
  decide

/-- SV-69. -/
theorem test_svReset_active :
    after (start [(0x131, 0x1), (0x139, 0x1), (0x100, 0x1), (0x101, 0x1), (0x102, 0x2), (0x10E, 0x4), (0x105, 0xf42400000), (0x10F, 0xa), (0x118, 0x7f9)]) 0x30000000 (fun t => reads t [(0x118, 0x0), (0x002, 0x100), (0x001, 0x1)]) = true := by
  decide

/-- SV-62: no mirror from an inactive context. -/
theorem test_svReset_inactive :
    after (start [(0x131, 0x1), (0x139, 0x1), (0x100, 0x1), (0x101, 0x1), (0x102, 0x2), (0x10E, 0x4), (0x105, 0xf42400000), (0x10F, 0xa), (0x118, 0x101), (0x119, 0x1f40000), (0x159, 0x1f40000), (0x158, 0x100)]) 0x30100000 (fun t => reads t [(0x119, 0x1f40000), (0x118, 0x101), (0x159, 0x0), (0x158, 0x0), (0x002, 0x0)]) = true := by
  decide

/-- SV-25. -/
theorem test_svDelay_filtered :
    after (start [(0x131, 0x1), (0x139, 0x1), (0x100, 0x1), (0x101, 0x1), (0x102, 0x2), (0x10E, 0x4), (0x105, 0xf42400000), (0x10F, 0xa), (0x118, 0x501), (0x122, 0x5780000), (0x025, 0x3e8), (0x024, 0x0), (0x027, 0x3e8), (0x026, 0x3e900000000)]) 0x31023002 (fun t => reads t [(0x123, 0x3e90000), (0x124, 0x4b08000), (0x118, 0x701), (0x001, 0x10003)]) = true := by
  decide

/-- SV-21: a raw delay equal to `SV_THR_DELAY` only sets `force_step`. -/
theorem test_svDelay_huge :
    after (start [(0x131, 0x1), (0x139, 0x1), (0x100, 0x1), (0x101, 0x1), (0x102, 0x2), (0x10E, 0x4), (0x105, 0xf42400000), (0x10F, 0xa), (0x118, 0x501), (0x122, 0x5780000), (0x025, 0x3e8), (0x024, 0x0), (0x027, 0x3e8), (0x026, 0x2faf028800000000)]) 0x31023002 (fun t => reads t [(0x123, 0x0), (0x124, 0x0), (0x118, 0x581), (0x001, 0x10001)]) = true := by
  decide

/-- S5 (a). -/
theorem test_svOffset_below_threshold :
    after (start [(0x131, 0x1), (0x139, 0x1), (0x100, 0x1), (0x101, 0x1), (0x102, 0x2), (0x10E, 0x4), (0x105, 0xf42400000), (0x10F, 0xa), (0x021, 0x3e8), (0x020, 0x0), (0x023, 0x3e8), (0x022, 0x17d783ff00000000)]) 0x32001002 (fun t => reads t [(0x125, 0x17d783ff0000), (0x128, 0xbebc1ff8000), (0x129, 0xffffffd16f1231f4), (0x118, 0x501), (0x002, 0x100), (0x0E0, 0x1), (0x200, 0x1), (0x001, 0x10003)]) = true := by
  decide

/-- S5 (b). -/
theorem test_svOffset_at_threshold :
    after (start [(0x131, 0x1), (0x139, 0x1), (0x100, 0x1), (0x101, 0x1), (0x102, 0x2), (0x10E, 0x4), (0x105, 0xf42400000), (0x10F, 0xa), (0x021, 0x3e8), (0x020, 0x0), (0x023, 0x3e8), (0x022, 0x17d7840000000000)]) 0x32001002 (fun t => reads t [(0x0E1, 0xb), (0x0E2, 0x17d784000000), (0x118, 0x2), (0x122, 0x0), (0x200, 0x3), (0x203, 0x186a0), (0x002, 0x300), (0x001, 0x1020001)]) = true := by
  decide

/-- SV-46. -/
theorem test_svPid_terms :
    after (start [(0x131, 0x1), (0x139, 0x1), (0x100, 0x7), (0x101, 0x1), (0x102, 0x2), (0x103, 0x10), (0x104, 0x4), (0x10E, 0x4), (0x106, 0x640000), (0x11A, 0x1f40000), (0x11C, 0x4b00000), (0x12D, 0x7d0), (0x12C, 0x0), (0x118, 0x105), (0x010, 0x3e80000), (0x023, 0x7d1), (0x022, 0x0)]) 0x33001000 (fun t => reads t [(0x11D, 0x3b9aca000000), (0x119, 0x1f40000), (0x11A, 0x5dc0000), (0x11B, 0xffffffffffce0000), (0x128, 0x21fc000), (0x129, 0xfffffffffff7b3fa), (0x118, 0x105), (0x159, 0x1f40000), (0x15A, 0x5dc0000), (0x169, 0xfffffffffff7b3fa), (0x158, 0x100), (0x001, 0x50003)]) = true := by
  decide

/-- SV-51: `adjust_phase` takes the floor. -/
theorem test_svPid_phase_output :
    after (start [(0x131, 0x1), (0x139, 0x1), (0x100, 0x1), (0x101, 0x1), (0x102, 0x2), (0x10E, 0x4), (0x105, 0xf42400000), (0x10F, 0xa), (0x106, 0x7d00000), (0x010, 0xfffffffffc178000), (0x023, 0x7d0), (0x022, 0x0)]) 0x33001000 (fun t => reads t [(0x128, 0xfffffffffe0bc000), (0x129, 0x0), (0x0E0, 0x2), (0x0E1, 0x4), (0x0E2, 0xfffffffffffffc17), (0x001, 0x10003)]) = true := by
  decide

/-- SV-67. -/
theorem test_svSwitch_reserved :
    after (start [(0x131, 0x1), (0x139, 0x1), (0x100, 0x1), (0x101, 0x1), (0x102, 0x2), (0x10E, 0x4), (0x105, 0xf42400000), (0x10F, 0xa), (0x118, 0x9)]) 0x34000000 (fun t => reads t [(0x0F0, 0x0), (0x001, 0x90900)]) = true := by
  decide

/-- SV-70: the old settle timer is dropped, the new one armed. -/
theorem test_svSwitch_settling :
    after (start [(0x131, 0x1), (0x139, 0x1), (0x100, 0x1), (0x101, 0x1), (0x102, 0x2), (0x10E, 0x4), (0x105, 0xf42400000), (0x10F, 0xa), (0x14F, 0x3), (0x118, 0x2), (0x200, 0x3), (0x203, 0x186a0), (0x1F0, 0x9c40), (0x002, 0x0)]) 0x34000000 (fun t => reads t [(0x0F0, 0x1), (0x158, 0x2), (0x118, 0x2), (0x200, 0x1), (0x208, 0x3), (0x20B, 0x11170), (0x002, 0x100), (0x0E0, 0x0), (0x001, 0x1820001)]) = true := by
  decide

/-- R292 with `ratio = -ppt(32768000) = -500000`. -/
theorem test_svLost_holdover :
    after (start [(0x131, 0x1), (0x139, 0x1), (0x100, 0x1), (0x101, 0x1), (0x102, 0x2), (0x10E, 0x4), (0x105, 0xf42400000), (0x10F, 0xa), (0x118, 0x47), (0x11E, 0x1f40000), (0x119, 0x5)]) 0x35000000 (fun t => reads t [(0x118, 0x40), (0x11E, 0x1f40000), (0x119, 0x0), (0x129, 0xfffffffffff85ee0), (0x0E0, 0x1), (0x0E2, 0xfffffffffff85ee0), (0x002, 0x900), (0x001, 0x400001)]) = true := by
  decide

/-- SV-6. -/
theorem test_svLost_inactive :
    after (start []) 0x35100000 (fun t => reads t [(0x001, 0xa00)]) = true := by
  decide

/-- SV-68. -/
theorem test_svStat_reads_anything :
    after (start [(0x131, 0x1), (0x139, 0x1), (0x100, 0x1), (0x101, 0x1), (0x102, 0x2), (0x10E, 0x4), (0x105, 0xf42400000), (0x10F, 0xa), (0x118, 0x7f9)]) 0x36000000 (fun t => reads t [(0x008, 0x7f9), (0x009, 0x0), (0x001, 0x790001)]) = true := by
  decide

/-- CD-13. -/
theorem test_pkHdr_bytes :
    after (start [(0x068, 0x7), (0x069, 0x29), (0x040, 0xfedc), (0x041, 0xffff), (0x042, 0xff), (0x043, 0x8003), (0x044, 0xfffffffffffd8000), (0x045, 0xfffefdfcfbfaf9f8), (0x046, 0xf7f6), (0x047, 0xffff), (0x048, 0xf5), (0x049, 0x80)]) 0x40000000 (fun t => reads t [(0x06B, 0x1), (0x001, 0x1)] && holds t 7 [0xDC, 0xFE, 0xFF, 0xFF, 0xFF, 0x00, 0x80, 0x03, 0xFF, 0xFF, 0xFF, 0xFF, 0xFF, 0xFD, 0x80, 0x00, 0x00, 0x00, 0x00, 0x00, 0xFF, 0xFE, 0xFD, 0xFC, 0xFB, 0xFA, 0xF9, 0xF8, 0xF7, 0xF6, 0xFF, 0xFF, 0xF5, 0x80]) = true := by
  decide

/-- CD-1. -/
theorem test_pkHdr_bounds :
    after (start [(0x069, 0x21)]) 0x40000000 (fun t => reads t [(0x06B, 0x0), (0x001, 0x500)]) = true := by
  decide

/-- CD-13. -/
theorem test_upHdr_registers :
    after (poke 7 [0xDC, 0xFE, 0xFF, 0xFF, 0xFF, 0x00, 0x80, 0x03, 0xFF, 0xFF, 0xFF, 0xFF, 0xFF, 0xFD, 0x80, 0x00, 0x00, 0x00, 0x00, 0x00, 0xFF, 0xFE, 0xFD, 0xFC, 0xFB, 0xFA, 0xF9, 0xF8, 0xF7, 0xF6, 0xFF, 0xFF, 0xF5, 0x80] (start [(0x068, 0x7), (0x069, 0x29)])) 0x41000000 (fun t => reads t [(0x040, 0xfedc), (0x041, 0xffff), (0x042, 0xff), (0x043, 0x8003), (0x044, 0xfffffffffffd8000), (0x045, 0xfffefdfcfbfaf9f8), (0x046, 0xf7f6), (0x047, 0xffff), (0x048, 0xf5), (0x049, 0x80), (0x001, 0x1)]) = true := by
  decide

/-- CD-10. -/
theorem test_pkTs_bytes :
    after (packed (start [(0x069, 0x2c), (0x021, 0xabcd12345678), (0x020, 0x3b9ac9ff0000ffff)])) 0x42000000 (fun t => reads t [(0x001, 0x1)] && holds t 34 [0xAB, 0xCD, 0x12, 0x34, 0x56, 0x78, 0x3B, 0x9A, 0xC9, 0xFF]) = true := by
  decide

/-- CD-7: `E_SEQ` before `E_BOUNDS` and `E_OPERAND`. -/
theorem test_pkTs_order :
    after (start [(0x069, 0x2b), (0x021, 0x5), (0x020, 0x3b9aca0000000000)]) 0x42000000 (fun t => reads t [(0x001, 0x700)]) = true := by
  decide

/-- CD-14. -/
theorem test_upTs_unchecked :
    after (poke 34 [0x00, 0x00, 0x00, 0x00, 0x00, 0x05, 0x3B, 0x9A, 0xCA, 0x00] (start [(0x069, 0x2c)])) 0x43100000 (fun t => reads t [(0x023, 0x5), (0x022, 0x3b9aca0000000000), (0x001, 0x1)]) = true := by
  decide

/-- CD-15. -/
theorem test_pkPd_bytes :
    after (packed (start [(0x068, 0x64), (0x069, 0x9a), (0x025, 0x6553f100), (0x024, 0x75bcd1500001234), (0x032, 0x102030405060708), (0x033, 0x9)])) 0x44021000 (fun t => reads t [(0x001, 0x1)] && holds t 134 [0x00, 0x00, 0x65, 0x53, 0xF1, 0x00, 0x07, 0x5B, 0xCD, 0x15, 0x01, 0x02, 0x03, 0x04, 0x05, 0x06, 0x07, 0x08, 0x00, 0x09]) = true := by
  decide

/-- CD-15. -/
theorem test_upPd_registers :
    after (poke 134 [0x00, 0x00, 0x65, 0x53, 0xF1, 0x00, 0x07, 0x5B, 0xCD, 0x15, 0x01, 0x02, 0x03, 0x04, 0x05, 0x06, 0x07, 0x08, 0x00, 0x09] (start [(0x068, 0x64), (0x069, 0x9a)])) 0x45300000 (fun t => reads t [(0x027, 0x6553f100), (0x026, 0x75bcd1500000000), (0x030, 0x102030405060708), (0x031, 0x9), (0x001, 0x1)]) = true := by
  decide

/-- S7 (a), byte 7 written before as `PK.HDR` leaves it. -/
theorem test_pkAnn_at_event :
    after (poke 7 [0x08] (start [(0x068, 0x0), (0x069, 0x40), (0x043, 0x8), (0x058, 0x1122fffe334455), (0x054, 0x1122fffe334455), (0x050, 0x7777), (0x051, 0x80), (0x052, 0x4e5d2106), (0x053, 0x7f), (0x055, 0x0), (0x056, 0xa0), (0x059, 0x25), (0x05A, 0x100004e20), (0x021, 0x66ff3025), (0x020, 0x0)])) 0x46000000 (fun t => reads t [(0x05B, 0x24), (0x043, 0x8), (0x050, 0x7777), (0x001, 0x1)] && holds t 7 [0x08] && holds t 34 [0x00, 0x00, 0x66, 0xFF, 0x30, 0x25, 0x00, 0x00, 0x00, 0x00, 0x00, 0x24, 0x00, 0x80, 0x06, 0x21, 0x4E, 0x5D, 0x7F, 0x00, 0x11, 0x22, 0xFF, 0xFE, 0x33, 0x44, 0x55, 0x00, 0x00, 0xA0]) = true := by
  decide

/-- CD-23: `ANN_UTC` packed as it is, nothing persisted. -/
theorem test_pkAnn_not_grandmaster :
    after (poke 7 [0x0B] (start [(0x068, 0x0), (0x069, 0x40), (0x043, 0x8), (0x058, 0x1122fffe334455), (0x054, 0x1122fffe334455), (0x050, 0x7777), (0x051, 0x80), (0x052, 0x4e5d2106), (0x053, 0x7f), (0x055, 0x0), (0x056, 0xa0), (0x059, 0x25), (0x05A, 0x100004e20), (0x05B, 0x30055), (0x054, 0x11223344556677), (0x050, 0xffdb), (0x043, 0xb), (0x021, 0x66ff3025), (0x020, 0x0)])) 0x46000000 (fun t => reads t [(0x05B, 0x30055), (0x043, 0xb), (0x001, 0x1)] && holds t 7 [0x0B] && holds t 44 [0xFF, 0xDB]) = true := by
  decide

/-- CD-30. -/
theorem test_upAnn_registers :
    after (poke 34 [0x80, 0x81, 0x82, 0x83, 0x84, 0x85, 0x86, 0x87, 0x88, 0x89, 0x8A, 0x8B, 0x8C, 0x8D, 0x8E, 0x8F, 0x90, 0x91, 0x92, 0x93, 0x94, 0x95, 0x96, 0x97, 0x98, 0x99, 0x9A, 0x9B, 0x9C, 0x9D] (start [(0x069, 0x40), (0x05B, 0x12345)])) 0x47200000 (fun t => reads t [(0x025, 0x808182838485), (0x024, 0x8687888900000000), (0x050, 0x8a8b), (0x051, 0x8d), (0x052, 0x90918f8e), (0x053, 0x92), (0x054, 0x939495969798999a), (0x055, 0x9b9c), (0x056, 0x9d), (0x05B, 0x12345), (0x001, 0x1)]) = true := by
  decide

/-- R238. -/
theorem test_pkSig_target :
    after (packed (start [(0x069, 0x2c), (0x032, 0x102030405060708), (0x033, 0x9)])) 0x48001000 (fun t => reads t [(0x06A, 0x2c), (0x001, 0x1)] && holds t 34 [0x01, 0x02, 0x03, 0x04, 0x05, 0x06, 0x07, 0x08, 0x00, 0x09]) = true := by
  decide

/-- R239. -/
theorem test_upSig_target :
    after (poke 34 [0x01, 0x02, 0x03, 0x04, 0x05, 0x06, 0x07, 0x08, 0x00, 0x09] (start [(0x069, 0x2c)])) 0x49001000 (fun t => reads t [(0x06A, 0x2c), (0x032, 0x102030405060708), (0x033, 0x9), (0x001, 0x1)]) = true := by
  decide

/-- CD-42: the value is read whole before any write. -/
theorem test_pkTlv_overlap :
    after (poke 40 [0x11, 0x22, 0x33, 0x44, 0x55, 0x66, 0x77, 0x88, 0x99, 0xAA] (start [(0x069, 0x40), (0x06A, 0x28), (0x060, 0x102), (0x061, 0x6), (0x062, 0x2a)])) 0x4A000000 (fun t => reads t [(0x06A, 0x32), (0x001, 0x1)] && holds t 40 [0x01, 0x02, 0x00, 0x06, 0x33, 0x44, 0x55, 0x66, 0x77, 0x88]) = true := by
  decide

/-- CD-36. -/
theorem test_pkTlv_value_beyond :
    after (start [(0x069, 0x40), (0x06A, 0x2c), (0x060, 0x3), (0x061, 0x10), (0x062, 0x7f1)]) 0x4A000000 (fun t => reads t [(0x06A, 0x2c), (0x001, 0x500)]) = true := by
  decide

/-- CD-38. -/
theorem test_upTlv_value_beyond :
    after (poke 44 [0x00, 0x03, 0x00, 0x11] (start [(0x069, 0x40), (0x06A, 0x2c)])) 0x4B000000 (fun t => reads t [(0x060, 0x0), (0x061, 0x0), (0x062, 0x0), (0x06A, 0x2c), (0x001, 0x500)]) = true := by
  decide

/-- CD-32. -/
theorem test_upTlv_zero_length :
    after (poke 44 [0x80, 0x01, 0x00, 0x00] (start [(0x069, 0x40), (0x06A, 0x2c)])) 0x4B000000 (fun t => reads t [(0x060, 0x0), (0x06A, 0x2c), (0x001, 0x600)]) = true := by
  decide

/-- CC-1. -/
theorem test_ccFreq_record :
    after (start [(0x011, 0x8000000000000000)]) 0x500100FF (fun t => reads t [(0x0E0, 0x1), (0x0E1, 0xff01), (0x0E2, 0x8000000000000000), (0x0E3, 0x0), (0x001, 0x1)]) = true := by
  decide

/-- CC-3. -/
theorem test_ccSetTime_record :
    after (start [(0x025, 0xffffffffffff), (0x024, 0x3b9ac9ff0000ffff)]) 0x51020007 (fun t => reads t [(0x0E1, 0x702), (0x0E2, 0xffffffffffff), (0x0E3, 0x3b9ac9ff0000ffff), (0x001, 0x1)]) = true := by
  decide

/-- CC-4. -/
theorem test_ccSetTime_ill_formed :
    after (start [(0x025, 0x1), (0x024, 0x3b9aca0000000000)]) 0x51020007 (fun t => reads t [(0x0E0, 0x0), (0x001, 0x400)]) = true := by
  decide

/-- CC-5. -/
theorem test_ccDelta_lowest :
    after (start [(0x010, 0x8000000000000000)]) 0x52000001 (fun t => reads t [(0x0E1, 0x10b), (0x0E2, 0x8000000000000000), (0x001, 0x1)]) = true := by
  decide

/-- CC-6. -/
theorem test_ccDelta_zero :
    after (start []) 0x52000001 (fun t => reads t [(0x0E1, 0x103), (0x0E2, 0x0), (0x001, 0x1)]) = true := by
  decide

/-- CC-8. -/
theorem test_ccPhase_record :
    after (start [(0x014, 0xfffffffffffffc17)]) 0x53040000 (fun t => reads t [(0x0E1, 0x4), (0x0E2, 0xfffffffffffffc17), (0x001, 0x1)]) = true := by
  decide

/-- CC-9: the answer scheduled is taken. -/
theorem test_ccGetTime_answer :
    after { start [] with inputs := ⟨9999, [], [⟨0, 5, 7, 9, 99⟩], 0⟩ } 0x54300002
      (fun t => reads t [(0x027, 5), (0x026, 0x700000009), (0x0E4, 99), (0x008, 99), (0x0E1, 0x205), (0x001, 1)]
        && t.inputs.answers == []) = true := by
  decide

/-- TM-5. -/
theorem test_tmInit_counts :
    after (start []) 0x602000AB (fun t => reads t [(0x210, 0xab01), (0x211, 0x0), (0x213, 0x0), (0x001, 0x1)]) = true := by
  decide

/-- TM-2. -/
theorem test_tmInit_settle :
    after (start []) 0x60000000 (fun t => reads t [(0x001, 0x900)]) = true := by
  decide

/-- TM-7. -/
theorem test_tmStart_rounds_up :
    after (start [(0x210, 0x1), (0x1F0, 0x3039)]) 0x61200000 (fun t => reads t [(0x210, 0x3), (0x212, 0x0), (0x213, 0x4e20), (0x001, 0x1)]) = true := by
  decide

/-- TM-22. -/
theorem test_tmStart_overflow :
    after (start [(0x210, 0x1), (0x1F0, 0xffffffffffffec78), (0x010, 0x1)]) 0x61200000 (fun t => reads t [(0x210, 0x1), (0x001, 0x200)]) = true := by
  decide

/-- TM-13. -/
theorem test_tmStop_lazy :
    after (start [(0x210, 0x7), (0x211, 0x5), (0x212, 0xc350), (0x213, 0xc350)]) 0x62200000 (fun t => reads t [(0x210, 0xf), (0x213, 0xc350), (0x001, 0x1)]) = true := by
  decide

/-- TM-16. -/
theorem test_tmStop_unarmed :
    after (start []) 0x62500000 (fun t => reads t [(0x228, 0x0), (0x001, 0x1)]) = true := by
  decide

/-- S2. -/
theorem test_tmTick_losses :
    after (start [(0x218, 0x7), (0x219, 0x2), (0x21A, 0x4e20), (0x21B, 0x4e20), (0x011, 0x19a28)]) 0x63010000 (fun t => reads t [(0x21B, 0x1d4c0), (0x21C, 0x1), (0x21D, 0x4), (0x002, 0x8), (0x1F1, 0x1d4c0), (0x008, 0x1d4c0), (0x001, 0x3)]) = true := by
  decide

/-- TM-14: a timer being stopped is removed, not fired. -/
theorem test_tmTick_removes :
    after (start [(0x210, 0xf), (0x211, 0x5), (0x212, 0xc350), (0x213, 0xc350), (0x011, 0xea60)]) 0x63010000 (fun t => reads t [(0x210, 0x5), (0x21C, 0x0), (0x002, 0x0), (0x1F1, 0xffffffffffffffff), (0x1F0, 0xea60), (0x001, 0x1)]) = true := by
  decide

/-- SY-6. -/
theorem test_sysReset_keeps_buf :
    after (poke 0 [0xAA, 0xBB] (start [(0x131, 0x1), (0x139, 0x1), (0x100, 0x1), (0x101, 0x1), (0x102, 0x2), (0x10E, 0x4), (0x105, 0xf42400000), (0x10F, 0xa), (0x069, 0x40), (0x013, 0x4d), (0x003, 0xfff)])) 0x7F000000 (fun t => reads t [(0x013, 0x0), (0x10E, 0x0), (0x110, 0x17d784000000), (0x113, 0x7fffffff), (0x200, 0x1), (0x1F1, 0xffffffffffffffff), (0x069, 0x0), (0x003, 0x0), (0x000, 0x7f000000), (0x005, 0x1), (0x001, 0x1)] && holds t 0 [0xAA, 0xBB]) = true := by
  decide

/-- R342, R373: a write and a read of `BUF_DATA` advance `BUF_ADDR`. -/
theorem test_bufData : (match step { start [(0x06C, 2047)] with inputs := ⟨9999, [.wr csrBufData 0x1AB], [], 0⟩ } with
    | .next t => reads t [(0x06C, 2048)] && holds t 2047 [0xAB]
    | _ => false) = true := by
  decide

/-- SY-8, SY-9: `ID` is read-only, an unlisted number reads zero. -/
theorem test_id_and_unlisted : reads (start [(0x004, 0), (0x00F, 0x1234)]) [(0x004, 0x50534507), (0x00F, 0), (0xFFF, 0)] = true := by
  decide

/-- A run needs nothing but its transactions: with none pending the engine waits (R370). -/
theorem test_idle : step (start []) = .next (start []) := rfl
/-! For each statement of Certificates/Slice0/Obligations.lean that has hypotheses: states and operands that meet them, one part for
each clause, at the ends of the ranges where a clause has one. -/

/-- The state with the host's next transactions. -/
def given (ts : List Txn) (s : State) : State := { s with inputs := { s.inputs with pending := ts } }

/-- A context 0 set up by the bring-up of R385, and more CSRs. -/
def broughtUp (ws : List (Nat × Nat)) : State :=
  start ([(0x131, 1), (0x139, 1), (0x100, 1), (0x101, 1), (0x102, 2), (0x10E, 4), (0x105, 0xF42400000), (0x10F, 10)] ++ ws)

theorem witness_IllegalWordEffect :
    Next (given [.wr csrCmd 0x0C000000] (start [])) (.wr csrCmd 0x0C000000) []
      ∧ wellFormedWord ((0x0C000000 : Reg).setWidth 32) = false
      ∧ ((0x0C, 0x0F) ∈ reservedOpcodes ∧ (0x80, 0xFF) ∈ reservedOpcodes) := ⟨rfl, by decide, by decide⟩

theorem witness_StepRunsDecodedInstruction :
    Next (given [.wr csrCmd 0xFFFFFFFF02201000] (start [])) (.wr csrCmd 0xFFFFFFFF02201000) []
      ∧ decode ((0xFFFFFFFF02201000 : Reg).setWidth 32) = some (.tiAdd 2 0 1) := ⟨rfl, by decide⟩

theorem witness_CsrReadAndByteAccess :
    (Next (given [.rd 0x010] (start [])) (.rd 0x010) [] ∧ (0x010 : CsrNumber) ≠ csrBufData)
      ∧ (Next (given [.rd csrBufData] (start [(0x06C, 2047)])) (.rd csrBufData) []
        ∧ Next (given [.rd csrBufData] (start [(0x06C, 2048)])) (.rd csrBufData) [])
      ∧ Next (given [.wr csrBufData 7] (start [(0x06C, 2047)])) (.wr csrBufData 7) [] := ⟨⟨rfl, by decide⟩, ⟨rfl, rfl⟩, rfl⟩

/-- Bit 7 of `STATUS` is in no field, bit 24 is in one. -/
theorem witness_CsrFieldsRead :
    (∀ r ∈ csrFields (start []), r.num = (0x001 : CsrNumber).toNat → 7 < r.lo ∨ r.lo + r.width ≤ 7)
      ∧ ∃ r ∈ csrFields (start []), r.num = 0x001 ∧ r.lo = 24 := by decide +kernel

/-- A settling context shows in the live view, bits 24 and 17 (R25). -/
theorem test_status_live_view : csrValue (start [(0x118, 2)]) 0x001 &&& 0x1FF0000 = 0x1020000 := by decide

theorem witness_CsrWriteReadBack :
    ((0x011 : CsrNumber) ≠ 0x010 ∧ ¬ WriteShows (start []) 0x010 0x011) ∧ csrPlain 0x003 = true ∧ csrPlain 0x23D = true ∧ csrListed 0x006 = false ∧ csrListed 0xFFF = false ∧ csrReadOnly 0x001 = true
      ∧ Next (given [.wr 0x010 5] (start [])) (.wr 0x010 5) [] ∧ (0x010 : CsrNumber) ≠ csrCmd :=
  ⟨⟨by decide, by unfold WriteShows; decide⟩, by decide, by decide, by decide, by decide, by decide, rfl, by decide⟩

theorem witness_EventsClearAndIrq :
    Next (given [.wr 0x002 4] (start [])) (.wr 0x002 4) [] ∧ (start []).evtMask = 0
      ∧ irq { start [] with evt := 0x800, evtMask := 0x800 } = true := ⟨rfl, rfl, by decide⟩

theorem witness_ResetValues :
    Next (given [.reset] (start [])) .reset [] ∧ (0x110 : CsrNumber) ≠ csrBufData ∧ ∃ t, Answers .sysReset (start []) t :=
  ⟨rfl, by decide, _, rfl⟩

theorem witness_InvariantsAtReset : Next (given [.reset] (start [])) .reset [] := rfl

theorem witness_SystemCommands :
    Next (given [.wr csrCmd 0x7F000000] (start [])) (.wr csrCmd 0x7F000000) []
      ∧ ((1 : CommandWord) ≠ 0 ∧ (0x00FFFFFF : CommandWord) ≠ 0 ∧ (0x00FFFFFF : CommandWord).toNat < 16777216)
      ∧ ((0x7F000001 : CommandWord) ≠ 0x7F000000 ∧ (0x7F000001 : CommandWord).toNat / 16777216 = 0x7F) := ⟨rfl, by decide, by decide⟩

/-- A division by zero, and an illegal word. -/
theorem witness_FailureChangesNothing :
    (∃ t, Next (given [.wr csrCmd 0x0B010000] (start [])) (.wr csrCmd 0x0B010000) []
        ∧ step (given [.wr csrCmd 0x0B010000] (start [])) = .next t ∧ t.status.ok = false)
      ∧ ∃ t, Next (given [.wr csrCmd 1] (start [])) (.wr csrCmd 1) [] ∧ step (given [.wr csrCmd 1] (start [])) = .next t
        ∧ t.status.ok = false := ⟨⟨_, rfl, rfl, rfl⟩, ⟨_, rfl, rfl, rfl⟩⟩

theorem witness_StatusAndCounters :
    (∃ t, Answers (.fltStep 0 1 0 1) (broughtUp []) t ∧ t.status.valid = true)
      ∧ (∃ t, Answers .nop (start []) t ∧ t.status.ok = true) ∧ ∃ t, Answers (.tiDivI 0 1 0) (start []) t ∧ t.status.ok = false :=
  ⟨answers_of_ends (p := fun t => t.status.valid) (by decide), answers_of_ends (p := fun t => t.status.ok) (by decide),
    ⟨_, rfl, rfl⟩⟩

theorem witness_ErrorCodes : ∃ t, Answers (.tiDivI 0 1 0) (start []) t ∧ t.status.ok = false := ⟨_, rfl, rfl⟩

theorem witness_EventsStickyAndNamed :
    (.tmTick 1 : Instr) ≠ .sysReset
      ∧ ∃ t, Answers (.tmTick 1) (start [(0x210, 3), (0x213, 5), (0x011, 5), (0x002, 0)]) t ∧ (t.evt == 4) = true :=
  ⟨by decide, answers_of_ends (p := fun t => t.evt == 4) (by decide)⟩

theorem witness_StateChangeEvent :
    (.svReset 0 : Instr) ≠ .sysReset ∧ (broughtUp [(0x118, 7)]).evt.getLsbD 8 = false
      ∧ ∃ t, Answers (.svReset 0) (broughtUp [(0x118, 7)]) t ∧ t.evt.getLsbD 8 = true :=
  ⟨by decide, by decide, answers_of_ends (p := fun t => t.evt.getLsbD 8) (by decide)⟩

theorem witness_CallsOfCommands : ∃ t, Answers (.ccFreq 0 0) (start []) t ∧ (t.trace == [.setFrequencyRatio 0 0]) = true :=
  answers_of_ends (p := fun t => t.trace == [.setFrequencyRatio 0 0]) (by decide)

/-- With two calls (the phase output), one and none; the largest delta. -/
theorem witness_CallRecorded :
    (∃ t, Answers (.svPid 0 0 1) (broughtUp []) t ∧ (t.trace.length == 2) = true)
      ∧ (∃ t, Answers (.ccDelta 0 0) (start [(0x010, 0x8000000000000000)]) t ∧ (t.cc.arg0 == 0x8000000000000000) = true)
      ∧ ∃ t, Answers .nop (start []) t ∧ (t.trace.length == 0) = true :=
  ⟨answers_of_ends (p := fun t => t.trace.length == 2) (by decide),
    answers_of_ends (p := fun t => t.cc.arg0 == 0x8000000000000000) (by decide),
    answers_of_ends (p := fun t => t.trace.length == 0) (by decide)⟩

theorem witness_CanonicalMemoryKept :
    (poke 2047 [1] (poke 5 [2, 3] (start []))).buf.wf = true
      ∧ ∃ t, step (given [.wr csrBufData 9] (poke 2047 [1] (poke 5 [2, 3] (start [])))) = .next t := ⟨by decide, _, rfl⟩

/-- A window that ends with `BUF`, one that is a byte short, and a command that stores nothing. -/
theorem witness_BufferBytesOutside :
    (∃ t, Answers .pkHdr (start [(0x068, 2014), (0x069, 2048)]) t ∧ t.status.ok = true)
      ∧ (∃ t, Answers .pkHdr (start [(0x069, 33)]) t ∧ (!t.status.ok) = true)
      ∧ storedRanges (.tiMov 0 1) (start []) = [] ∧ storedRanges .pkHdr (start [(0x068, 2014), (0x069, 2048)]) = [(2014, 34)] :=
  ⟨answers_of_ends (p := fun t => t.status.ok) (by decide), answers_of_ends (p := fun t => !t.status.ok) (by decide), rfl, by decide⟩

theorem witness_BigEndianAccess : (2040 + 8 ≤ 2048) ∧ (2038 + 10 ≤ 2048) ∧ (start [(0x06C, 2047)]).win.addr.toNat < 2048 := by decide

/-! TimeValue unit. -/

/-- The ends of the 64-bit range, for the four checked sums. -/
theorem witness_CheckedSums :
    Fits ((start [(0x010, 0x7FFFFFFFFFFFFFFE), (0x011, 1)]).ti[(0 : TiReg)].toInt
        + (start [(0x010, 0x7FFFFFFFFFFFFFFE), (0x011, 1)]).ti[(1 : TiReg)].toInt)
      ∧ ¬ Fits ((start [(0x010, 0x7FFFFFFFFFFFFFFF), (0x011, 1)]).ti[(0 : TiReg)].toInt
        + (start [(0x010, 0x7FFFFFFFFFFFFFFF), (0x011, 1)]).ti[(1 : TiReg)].toInt)
      ∧ ¬ Fits (-(start [(0x010, 0x8000000000000000)]).ti[(0 : TiReg)].toInt)
      ∧ Fits (-(start [(0x010, 0x8000000000000001)]).ti[(0 : TiReg)].toInt) := by
  unfold Fits
  decide

theorem witness_CheckedProducts :
    Fits ((start [(0x010, 0x00007FFFFFFFFFFF)]).ti[(0 : TiReg)].toInt * 65536)
      ∧ ¬ Fits ((start [(0x010, 0x0000800000000000)]).ti[(0 : TiReg)].toInt * 65536) := by
  unfold Fits
  decide

theorem witness_DivideByImmediate : (0 : BitVec 12) = 0 ∧ (1 : BitVec 12) ≠ 0 ∧ (0xFFF : BitVec 12) ≠ 0 := by decide

/-- An ill-formed Timestamp, the last point of the axis, and one beyond it. -/
theorem witness_TimestampMoveAndAdd :
    ¬ WellFormed (start [(0x020, 1000000000 * 4294967296)]).ts[(0 : TsReg)]
      ∧ (let s := start [(0x021, 0xFFFFFFFFFFFF), (0x020, 0x3B9AC9FF0000FFFE), (0x010, 1)]
         WellFormed s.ts[(0 : TsReg)] ∧ OnAxis (position s.ts[(0 : TsReg)] + s.ti[(0 : TiReg)].toInt))
      ∧ (let s := start [(0x021, 0xFFFFFFFFFFFF), (0x020, 0x3B9AC9FF0000FFFF), (0x010, 1)]
         WellFormed s.ts[(0 : TsReg)] ∧ ¬ OnAxis (position s.ts[(0 : TsReg)] + s.ti[(0 : TiReg)].toInt)) := by
  unfold WellFormed OnAxis position
  decide

/-- TS-5 and TS-6: the two sides of the upper end; TS-1: an ill-formed Timestamp. -/
theorem witness_TimestampDifferences :
    ¬ WellFormed (start [(0x022, 1000000000 * 4294967296)]).ts[(1 : TsReg)]
      ∧ (let s := start [(0x023, 140737), (0x022, 488355327 * 4294967296 + 65535)]
         WellFormed s.ts[(1 : TsReg)] ∧ WellFormed s.ts[(0 : TsReg)]
           ∧ Fits (position s.ts[(1 : TsReg)] - position s.ts[(0 : TsReg)]))
      ∧ (let s := start [(0x023, 140737), (0x022, 488355328 * 4294967296)]
         WellFormed s.ts[(1 : TsReg)] ∧ WellFormed s.ts[(0 : TsReg)]
           ∧ ¬ Fits (position s.ts[(1 : TsReg)] - position s.ts[(0 : TsReg)])) := by
  unfold WellFormed Fits position
  decide

/-! Filter unit. -/

/-- Period 0; FL-14, where the window sum overflows; and a lowpass filter, which cannot overflow. -/
theorem witness_FilterStep :
    (start []).sv[(0 : CtxId)].flt[(1 : FltId)].period = 0
      ∧ (let s := start [(0x138, 1), (0x139, 2), (0x13C, 1), (0x13F, 0x7FFFFFFFFFFFFFFF), (0x010, 1)]
         s.sv[(0 : CtxId)].flt[(1 : FltId)].period ≠ 0 ∧ FilterOverflows s.sv[(0 : CtxId)].flt[(1 : FltId)] s.ti[(0 : TiReg)])
      ∧ (broughtUp []).sv[(0 : CtxId)].flt[(1 : FltId)].period ≠ 0
      ∧ ¬ FilterOverflows (broughtUp []).sv[(0 : CtxId)].flt[(1 : FltId)] (broughtUp []).ti[(0 : TiReg)] := by
  unfold FilterOverflows Fits
  decide

/-- S3. -/
theorem witness_LowpassRampUp :
    (⟨false, 3, 0, 0, 0, 0, 0, 0⟩ : Filter).windowed = false ∧ (⟨false, 3, 0, 0, 0, 0, 0, 0⟩ : Filter).period ≠ 0
      ∧ (⟨false, 3, 0, 0, 0, 0, 0, 0⟩ : Filter).k = 0
      ∧ (runFilter ⟨false, 3, 0, 0, 0, 0, 0, 0⟩ [700, 100, 400, 1000]).toOption.map (fun r => r.2)
        = some [some 700, some 400, some 400, some 600] := by
  decide

/-- S4. -/
theorem witness_WindowEmitsOnce :
    (⟨true, 4, 2, 0, 0, 0, 0, 0⟩ : Filter).windowed = true ∧ (⟨true, 4, 2, 0, 0, 0, 0, 0⟩ : Filter).period ≠ 0
      ∧ (⟨true, 4, 2, 0, 0, 0, 0, 0⟩ : Filter).k = 0
      ∧ ([5, 1, 9, 3] : List TimeInterval).length = (⟨true, 4, 2, 0, 0, 0, 0, 0⟩ : Filter).period.toNat ∧ SumsFit [5, 1, 9, 3] := by
  refine ⟨rfl, by decide, rfl, rfl, ?_⟩
  intro k hk
  have hk' : k ≤ 4 := hk
  unfold Fits
  interval_cases k <;> decide

/-! Codec unit. -/

/-- The last window of 34 bytes, and one byte less. -/
theorem witness_PackHeader :
    InWindow (start [(0x068, 2014), (0x069, 2048)]) 2014 34 ∧ ¬ InWindow (start [(0x068, 2014), (0x069, 2047)]) 2014 34
      ∧ ¬ InWindow (start [(0x068, 2014), (0x069, 2049)]) 2014 34 := by
  unfold InWindow
  decide

theorem witness_UnpackHeaderAndAnnounce :
    InWindow (start [(0x069, 34)]) 0 34 ∧ ¬ InWindow (start [(0x069, 33)]) 0 34 ∧ InWindow (start [(0x069, 64)]) (0 + 34) 30
      ∧ ¬ InWindow (start [(0x069, 63)]) (0 + 34) 30 := by
  unfold InWindow
  decide

theorem witness_PackTimestampAndPdelay :
    (start []).win.hdrPacked = false ∧ (packed (start [(0x069, 44)])).win.hdrPacked = true
      ∧ ¬ InWindow (packed (start [(0x069, 43)])) (0 + 34) 10 ∧ InWindow (packed (start [(0x069, 44)])) (0 + 34) 10
      ∧ ¬ InWindow (packed (start [(0x069, 53)])) (0 + 34) 20 ∧ InWindow (packed (start [(0x069, 54)])) (0 + 34) 20
      ∧ ¬ WellFormed (packed (start [(0x069, 54), (0x020, 1000000000 * 4294967296)])).ts[(0 : TsReg)]
      ∧ WellFormed (packed (start [(0x069, 54), (0x020, 999999999 * 4294967296)])).ts[(0 : TsReg)] := by
  unfold InWindow WellFormed
  decide

theorem witness_UnpackTimestampAndPdelay :
    InWindow (start [(0x069, 44)]) (0 + 34) 10 ∧ ¬ InWindow (start [(0x069, 43)]) (0 + 34) 10
      ∧ InWindow (start [(0x069, 54)]) (0 + 34) 20 ∧ ¬ InWindow (start [(0x069, 53)]) (0 + 34) 20 := by
  unfold InWindow
  decide

/-- The grandmaster with an offset that fits at the lower end and one that does not (CD-24), and a node that is no grandmaster. -/
theorem witness_PackAnnounce :
    ¬ InWindow (start [(0x069, 63)]) 0 64 ∧ InWindow (start [(0x069, 64)]) 0 64
      ∧ ¬ WellFormed (start [(0x069, 64), (0x020, 1000000000 * 4294967296)]).ts[(0 : TsReg)]
      ∧ WellFormed (start [(0x069, 64)]).ts[(0 : TsReg)]
      ∧ (start [(0x069, 64)]).leap.localCid = (start [(0x069, 64)]).ann.gmId
      ∧ ¬ FitsUtc (leapRule (start [(0x059, 0x8000), (0x05A, 0x100004E20)]).leap 1728000000).1
      ∧ FitsUtc (leapRule (start [(0x059, 0x8001), (0x05A, 0x100004E20)]).leap 1728000000).1
      ∧ (start [(0x069, 64), (0x054, 1)]).leap.localCid ≠ (start [(0x069, 64), (0x054, 1)]).ann.gmId := by
  unfold InWindow WellFormed FitsUtc
  decide

theorem witness_SignallingTarget :
    (start []).win.hdrPacked = false ∧ (packed (start [(0x069, 44)])).win.hdrPacked = true
      ∧ InWindow (packed (start [(0x069, 44)])) (0 + 34) 10 ∧ ¬ InWindow (packed (start [(0x069, 43)])) (0 + 34) 10 := by
  unfold InWindow
  decide

/-- CD-35, CD-36, CD-37. -/
theorem witness_PackTlv :
    ¬ InWindow (start [(0x069, 64)]) 44 (4 + 17) ∧ 2048 < 2033 + 16 ∧ (InWindow (start [(0x069, 64)]) 44 (4 + 16) ∧ 2032 + 16 ≤ 2048) := by
  unfold InWindow
  decide

/-- CD-39, CD-33, CD-32, CD-38, CD-43. -/
theorem witness_UnpackTlv :
    ¬ InWindow (start [(0x069, 64)]) 61 4
      ∧ (InWindow (start [(0x069, 64)]) 44 4 ∧ memRead (poke 44 [0, 0, 0, 2] (start [(0x069, 64)])).buf 44 2 = 0)
      ∧ memRead (poke 44 [0x80, 1, 0, 0] (start [(0x069, 64)])).buf 46 2 = 0
      ∧ (memRead (poke 44 [0, 3, 0, 17] (start [(0x069, 64)])).buf 44 2 ≠ 0
          ∧ memRead (poke 44 [0, 3, 0, 17] (start [(0x069, 64)])).buf 46 2 = 17 ∧ ¬ InWindow (start [(0x069, 64)]) (44 + 4) 17)
      ∧ InWindow (start [(0x069, 64)]) (44 + 4) 16 := by
  unfold InWindow
  decide

theorem witness_TlvRoundTrip :
    let s := poke 512 [0xDE, 0xAD] (start [(0x069, 128), (0x06A, 44), (0x060, 0x8001), (0x061, 2), (0x062, 512)])
    s.tlv.type ≠ 0 ∧ s.tlv.len ≠ 0 ∧ ∃ t, Answers .pkTlv s t ∧ t.status.ok = true :=
  ⟨by decide, by decide, answers_of_ends (p := fun t => t.status.ok) (by decide)⟩

/-- The two orders, from one state. -/
theorem witness_HeaderAnnounceCommute :
    let s := poke 7 [0] (start [(0x069, 64)])
    ∃ t u t' u', Answers .pkHdr s t ∧ Answers (.pkAnn 0) t u ∧ Answers (.pkAnn 0) s t' ∧ Answers .pkHdr t' u' ∧ u.status.ok = true :=
  ⟨_, _, _, _, rfl, rfl, rfl, rfl, by decide⟩

/-! Servo unit. -/

theorem witness_ServoResetAndStatus : (0 : CtxId) = (start []).svActive ∧ (1 : CtxId) ≠ (start []).svActive := by decide

/-- Every hypothesis of the clauses in turn: an ill-formed operand, a reserved state, no sample, a huge delay (at the threshold), a
filter of period 0, one that overflows, one that does not. -/
theorem witness_DelaySample :
    (1 : CtxId) ≠ (start []).svActive ∧ (0 : CtxId) = (start []).svActive
      ∧ ¬ WellFormed (start [(0x020, 1000000000 * 4294967296)]).ts[(0 : TsReg)] ∧ WellFormed (start []).ts[(0 : TsReg)]
      ∧ ¬ StateLegal (start [(0x118, 9)]).sv[(0 : CtxId)] ∧ StateLegal (start [(0x118, 8)]).sv[(0 : CtxId)]
      ∧ ¬ LifetimesValid (start [(0x113, 0)]).sv[(0 : CtxId)] ∧ LifetimesValid (start []).sv[(0 : CtxId)]
      ∧ (start []).sv[(0 : CtxId)].st.haveSample = false ∧ (start [(0x118, 0x400)]).sv[(0 : CtxId)].st.haveSample = true
      ∧ (start []).sv[(0 : CtxId)].cfg.thrDelay.toInt ≤ |(26214400000000 : Int)|
      ∧ ¬ (start []).sv[(0 : CtxId)].cfg.thrDelay.toInt ≤ |(26214399999999 : Int)|
      ∧ (start []).sv[(0 : CtxId)].flt[(0 : FltId)].period = 0
      ∧ FilterOverflows (start [(0x130, 1), (0x131, 2), (0x134, 1), (0x137, 0x7FFFFFFFFFFFFFFF)]).sv[(0 : CtxId)].flt[(0 : FltId)] 1
      ∧ ¬ FilterOverflows (broughtUp []).sv[(0 : CtxId)].flt[(0 : FltId)] 1 := by
  unfold WellFormed StateLegal LifetimesValid FilterOverflows Fits
  decide

theorem witness_OffsetChecksAndSettling :
    ¬ PidConfigured (broughtUp [(0x102, 0)]).sv[(0 : CtxId)] ∧ PidConfigured (broughtUp []).sv[(0 : CtxId)]
      ∧ ¬ PidConfigured (broughtUp [(0x10E, 0)]).sv[(0 : CtxId)]
      ∧ LifetimesValid (broughtUp []).sv[(0 : CtxId)] ∧ ¬ LifetimesValid (broughtUp [(0x113, 0x600000005)]).sv[(0 : CtxId)]
      ∧ Monotonic (broughtUp [(0x118, 0x400)]).sv[(0 : CtxId)] ⟨0, 0, 0, 1⟩ ⟨0, 0, 0, 1⟩
      ∧ ¬ Monotonic (broughtUp [(0x118, 0x400)]).sv[(0 : CtxId)] ⟨0, 0, 0, 1⟩ ⟨0, 0, 0, 0⟩
      ∧ Settling (broughtUp [(0x118, 2)]).sv[(0 : CtxId)] ∧ Settling (broughtUp [(0x118, 6)]).sv[(0 : CtxId)]
      ∧ Fits (delayOf ⟨0, 0, 0, 0⟩ ⟨0, 140737, 488355327, 65535⟩ 0) ∧ ¬ Fits (delayOf ⟨0, 0, 0, 0⟩ ⟨0, 140737, 488355328, 0⟩ 0) := by
  unfold PidConfigured StateLegal LifetimesValid Monotonic Settling Fits delayOf position
  decide

/-- S5 (b): the threshold itself steps; SV-31: a raw offset that does not fit, with a time on the axis; SV-32 (a): one before it. -/
theorem witness_OffsetStepsClock :
    let s := broughtUp [(0x021, 1000), (0x023, 1000), (0x022, 400000000 * 4294967296)]
    let x := s.sv[(0 : CtxId)]
    (0 : CtxId) = s.svActive ∧ WellFormed s.ts[(0 : TsReg)] ∧ WellFormed s.ts[(1 : TsReg)] ∧ PidConfigured x ∧ LifetimesValid x
      ∧ Monotonic x s.ts[(0 : TsReg)] s.ts[(1 : TsReg)] ∧ ¬ Settling x
      ∧ StepsClock x (delayOf s.ts[(0 : TsReg)] s.ts[(1 : TsReg)] s.ti[(2 : TiReg)])
      ∧ Fits (rawOffset x (delayOf s.ts[(0 : TsReg)] s.ts[(1 : TsReg)] s.ti[(2 : TiReg)]))
      ∧ ¬ Fits (delayOf ⟨0, 1700000000, 0, 0⟩ ⟨0, 100, 0, 0⟩ 16384000) ∧ OnAxis (position ⟨0, 1700000000, 0, 0⟩ + 16384000)
      ∧ ¬ Fits (delayOf ⟨0, 0, 0, 0⟩ ⟨0xFFFF, 0, 0, 0⟩ (-1)) ∧ ¬ OnAxis (position ⟨0, 0, 0, 0⟩ + -1) := by
  unfold WellFormed PidConfigured StateLegal LifetimesValid Monotonic Settling StepsClock rawOffset delayOf Fits OnAxis position
  decide

/-- S5 (a): one nanosecond below the threshold is tracked; and what the clauses ask of the filter and of the controller. -/
theorem witness_OffsetTracked :
    let s := broughtUp [(0x021, 1000), (0x023, 1000), (0x022, 399999999 * 4294967296)]
    let x := s.sv[(0 : CtxId)]
    (0 : CtxId) = s.svActive ∧ WellFormed s.ts[(0 : TsReg)] ∧ WellFormed s.ts[(1 : TsReg)] ∧ PidConfigured x ∧ LifetimesValid x
      ∧ Monotonic x s.ts[(0 : TsReg)] s.ts[(1 : TsReg)] ∧ ¬ Settling x
      ∧ ¬ StepsClock x (delayOf s.ts[(0 : TsReg)] s.ts[(1 : TsReg)] s.ti[(2 : TiReg)])
      ∧ x.flt[(1 : FltId)].period ≠ 0 ∧ ¬ FilterOverflows x.flt[(1 : FltId)] 26214399934464
      ∧ TimeAdvances x s.ts[(1 : TsReg)] ∧ EvalFits x 26214399934464 s.ts[(1 : TsReg)]
      ∧ ¬ TimeAdvances (broughtUp [(0x118, 0x100)]).sv[(0 : CtxId)] ⟨0, 0, 0, 0⟩
      ∧ ¬ EvalFits (broughtUp [(0x101, 0xFFFF), (0x102, 1)]).sv[(0 : CtxId)] 9223372036854775807 ⟨0, 0, 0, 0⟩ := by
  unfold WellFormed PidConfigured StateLegal LifetimesValid Monotonic Settling StepsClock rawOffset delayOf FilterOverflows TimeAdvances
    EvalFits evalAdj evalITerm evalProp evalIntegral evalDiff evalDt UsesIntegral ratioOf Fits position
  refine ⟨?_, ?_, ?_, ?_, ?_, ?_, ?_, ?_, ?_, ?_, ?_, ?_, ?_, ?_⟩ <;> decide

/-- The clauses of `SV.PID`: settling, no time passed (SV-57), an adjustment that does not fit (SV-59), and one that does. -/
theorem witness_PidEvaluation :
    (1 : CtxId) ≠ (broughtUp []).svActive ∧ ¬ PidConfigured (broughtUp [(0x118, 9)]).sv[(0 : CtxId)]
      ∧ PidConfigured (broughtUp []).sv[(0 : CtxId)]
      ∧ Settling (broughtUp [(0x118, 6)]).sv[(0 : CtxId)] ∧ ¬ Settling (broughtUp [(0x118, 5)]).sv[(0 : CtxId)]
      ∧ ¬ TimeAdvances (broughtUp [(0x118, 0x101), (0x12D, 2000)]).sv[(0 : CtxId)] ⟨0, 2000, 0, 0⟩
      ∧ TimeAdvances (broughtUp [(0x118, 0x101), (0x12D, 2000)]).sv[(0 : CtxId)] ⟨0, 2000, 0, 1⟩
      ∧ ¬ EvalFits (broughtUp [(0x101, 0xFFFF), (0x102, 1)]).sv[(0 : CtxId)] 9223372036854775807 ⟨0, 0, 0, 0⟩
      ∧ EvalFits (broughtUp []).sv[(0 : CtxId)] 65536000 ⟨0, 2000, 0, 0⟩ := by
  unfold PidConfigured StateLegal Settling TimeAdvances EvalFits evalAdj evalITerm evalProp evalIntegral evalDiff evalDt UsesIntegral
    ratioOf Fits position
  decide

theorem witness_SwitchContext :
    ¬ StateLegal (broughtUp [(0x118, 9)]).sv[(0 : CtxId)] ∧ StateLegal (broughtUp [(0x118, 8)]).sv[(0 : CtxId)]
      ∧ ¬ Settling (broughtUp [(0x118, 8)]).sv[(0 : CtxId)] ∧ Settling (broughtUp [(0x118, 2)]).sv[(0 : CtxId)] := by
  unfold StateLegal Settling
  decide

theorem witness_MasterLost :
    (1 : CtxId) ≠ (broughtUp []).svActive ∧ ¬ StateLegal (broughtUp [(0x118, 0xF)]).sv[(0 : CtxId)]
      ∧ StateLegal (broughtUp []).sv[(0 : CtxId)] ∧ (broughtUp []).sv[(0 : CtxId)].st.holdoverOk = false
      ∧ (broughtUp [(0x118, 0x40)]).sv[(0 : CtxId)].st.holdoverOk = true := by
  unfold StateLegal
  decide

/-- A transition of each column: an evaluation, a step, a settle timer, a reset. -/
theorem witness_ClockTransitions :
    (∃ t, Answers (.svPid 0 0 1) (broughtUp []) t ∧ t.status.valid = true)
      ∧ (∃ t, Answers (.svOffset 0 0 1 2) (broughtUp [(0x021, 1000), (0x023, 1000), (0x022, 400000000 * 4294967296)]) t
          ∧ (t.status.ok && !t.status.valid && t.trace.length == 1) = true)
      ∧ (∃ t, Answers (.tmTick 1) (broughtUp [(0x118, 2), (0x200, 3), (0x203, 5), (0x011, 5)]) t ∧ t.status.ok = true)
      ∧ (Due (broughtUp [(0x118, 2), (0x200, 3), (0x203, 5), (0x011, 5)]).tm[settleTimer 0] 5)
      ∧ ∃ t, Answers (.svReset 0) (broughtUp [(0x118, 7)]) t ∧ t.status.ok = true :=
  ⟨answers_of_ends (p := fun t => t.status.valid) (by decide),
    answers_of_ends (p := fun t => t.status.ok && !t.status.valid && t.trace.length == 1) (by decide),
    answers_of_ends (p := fun t => t.status.ok) (by decide), by decide, answers_of_ends (p := fun t => t.status.ok) (by decide)⟩

theorem witness_ShadowAgreementKept :
    ShadowAgrees (broughtUp []) ∧ (∀ c, (.svPid 0 0 1 : Instr) = .svReset c → c = (broughtUp []).svActive)
      ∧ ∃ t, Answers (.svPid 0 0 1) (broughtUp []) t ∧ t.status.valid = true :=
  ⟨by unfold ShadowAgrees; decide, by simp, answers_of_ends (p := fun t => t.status.valid) (by decide)⟩

/-! Clock-control port. -/

theorem witness_ClockControlCalls :
    WellFormed (start [(0x020, 0x3B9AC9FF0000FFFF)]).ts[(0 : TsReg)] ∧ ¬ WellFormed (start [(0x020, 0x3B9ACA0000000000)]).ts[(0 : TsReg)] := by
  unfold WellFormed
  decide

theorem witness_GetTimeAnswers :
    ({ start [] with inputs := ⟨9999, [], [⟨0, 5, 999999999, 9, 99⟩], 0⟩ } : State).inputs.answers = [⟨0, 5, 999999999, 9, 99⟩]
      ∧ (start []).inputs.answers = [] := ⟨rfl, rfl⟩

/-! Timer unit. -/

theorem witness_TimerInitAndStop :
    (1 : TmrId).val < 2 ∧ 2 ≤ (2 : TmrId).val ∧ (start [(0x210, 3)]).tm[(2 : TmrId)].armed = true
      ∧ (start []).tm[(2 : TmrId)].armed = false := by decide

/-- TM-3, TM-1, TM-9, TM-6, TM-11. -/
theorem witness_TimerStart :
    (1 : TmrId).val < 2 ∧ 2 ≤ (2 : TmrId).val ∧ (start []).tm[(2 : TmrId)].init = false ∧ (start [(0x210, 1)]).tm[(2 : TmrId)].init = true
      ∧ 4294967296 ≤ (start [(0x010, 4294967296)]).ti[(0 : TiReg)].toNat
      ∧ (start [(0x010, 4294967295)]).ti[(0 : TiReg)].toNat < 4294967296 ∧ (start []).ti[(0 : TiReg)].toNat = 0 := by decide

/-- Going back in time (TM-18); a periodic timer with period 0 (TM-24); one whose deadline leaves the range (TM-23); and a tick that
completes (S2). -/
theorem witness_TimerTick :
    4999 < (start [(0x1F0, 5000)]).nowUs.toNat
      ∧ (let s := start [(0x210, 7), (0x213, 10000), (0x011, 10000)]
         Due s.tm[(2 : TmrId)] 10000 ∧ s.tm[(2 : TmrId)].periodic = true ∧ s.tm[(2 : TmrId)].periodUs = 0)
      ∧ (let s := start [(0x210, 7), (0x212, 10000), (0x213, 0xFFFFFFFFFFFFEC78)]
         Due s.tm[(2 : TmrId)] 18446744073709551615 ∧ s.tm[(2 : TmrId)].periodic = true ∧ s.tm[(2 : TmrId)].periodUs ≠ 0
           ∧ ¬ AdvanceFits s.tm[(2 : TmrId)] 18446744073709551615)
      ∧ (let s := start [(0x218, 7), (0x21A, 20000), (0x21B, 20000), (0x011, 105000)]
         s.nowUs.toNat ≤ 105000 ∧ Due s.tm[(3 : TmrId)] 105000 ∧ s.tm[(3 : TmrId)].periodUs ≠ 0 ∧ AdvanceFits s.tm[(3 : TmrId)] 105000
           ∧ ∀ i : TmrId, i ≠ 3 → ¬ Due s.tm[i] 105000) := by
  refine ⟨by decide, by decide, ⟨by decide, by decide, by decide, ?_⟩, by decide, by decide, by decide, ?_, by decide⟩
  · intro h
    have := h 0 (by decide)
    revert this
    decide
  · intro n hn
    change 20000 + n * 20000 ≤ 105000 at hn
    change 20000 + (n + 1) * 20000 < 18446744073709551616
    omega

end Sys2Proof.Machine
end

section
/-! SUPPORT. One transaction of the host, as the step takes it from the queue (R342). -/

namespace Sys2Proof.Machine

theorem step_of_next {s : State} {t : Txn} {rest : List Txn} (h : Next s t rest) :
    step s = transact t (popTxn rest s) := by
  unfold Next at h
  simp only [step, stepMachine, h]

theorem step_of_next_wr {s : State} {n : CsrNumber} {v : Reg} {rest : List Txn} (h : Next s (.wr n v) rest) (hn : n ≠ csrCmd) :
    step s = .next { csrWrite n v (popTxn rest s) with result := none } := by
  rw [step_of_next h]
  simp only [transact, if_neg hn]

theorem step_of_next_reset {s : State} {rest : List Txn} (h : Next s .reset rest) :
    step s = .next (resetTransaction (popTxn rest s)) := step_of_next h

theorem runWord_of_decode {w : CommandWord} {i : Instr} (h : decode w = some i) (s : State) :
    runWord w s = mapNext (latchCmd w) (exec i s) := by
  simp only [runWord, h]

/-- Settles O6: a command always answers a next state (`exec_next`), which the transaction completes by latching the word. -/
theorem stepRunsDecodedInstruction : Obligations.StepRunsDecodedInstruction := by
  unfold Obligations.StepRunsDecodedInstruction
  intro s v rest i hnext hdec
  obtain ⟨t, ht⟩ := exec_next i (popTxn rest s)
  have hstep : step s = runWord (v.setWidth 32) (popTxn rest s) := by
    rw [step_of_next hnext]
    simp only [transact, ↓reduceIte]
  refine ⟨t, ht, ?_⟩
  rw [hstep, runWord_of_decode hdec, ht]
  rfl

theorem irq_eq_true (s : State) : irq s = true ↔ ∃ b, b < 12 ∧ s.evt.getLsbD b = true ∧ s.evtMask.getLsbD b = true := by
  rw [irq, bne_iff_ne, Ne, BitVec.eq_of_getLsbD_eq_iff]
  simp

/-- Settles O10. -/
theorem eventsClearAndIrq : Obligations.EventsClearAndIrq := by
  unfold Obligations.EventsClearAndIrq
  refine ⟨fun s v rest hnext => ?_, irq_eq_true, fun s hmask => ?_⟩
  · refine ⟨s.evt &&& ~~~slice v 0 12, step_of_next_wr hnext (by decide), fun b hb => ?_⟩
    simp [slice, hb]
  · simp [irq, hmask]

/-- Settles O22: the reset transaction empties the list of written bytes, so every byte reads as the next power-on left it. -/
theorem invariantsAtReset : Obligations.InvariantsAtReset := by
  unfold Obligations.InvariantsAtReset
  refine ⟨reset_wf, rfl, by unfold ClocksLegal StateLegal; decide, fun s rest hnext => ?_⟩
  exact ⟨_, step_of_next_reset hnext, rfl, empty_wf _, fun x => rfl⟩

end Sys2Proof.Machine
end
section
/-! SUPPORT. The CSR map (R44) as its groups: to say something of what a CSR reads, or of what a write of it does, is to say it of each
group. -/

namespace Sys2Proof.Machine

/-- The numbers between the groups of R44, and those beyond them, are not listed. -/
theorem csrListed_gap {a : Nat}
    (h : 0x034 ≤ a ∧ a < 0x040 ∨ 0x070 ≤ a ∧ a < 0x0E0 ∨ 0x180 ≤ a ∧ a < 0x1F0 ∨ 0x1F2 ≤ a ∧ a < 0x200 ∨ 0x240 ≤ a) :
    csrListed a = false := by
  simp only [csrListed, Bool.or_eq_false_iff, Bool.and_eq_false_iff, decide_eq_false_iff_not, beq_eq_false_iff_ne]
  omega

/-- What holds of each group's read holds of every CSR's value. -/
theorem csrValue_cases {P : Reg → Prop} (s : State) (n : CsrNumber)
    (system : n.toNat < 0x010 → P (readSystem s n.toNat))
    (operand : 0x010 ≤ n.toNat → n.toNat < 0x034 → P (readOperand s n.toNat))
    (header : 0x040 ≤ n.toNat → n.toNat < 0x050 → P (readHeader s.hdr n.toNat))
    (announce : 0x050 ≤ n.toNat → n.toNat < 0x058 → P (readAnnounce s.ann n.toNat))
    (leapTlv : 0x058 ≤ n.toNat → n.toNat < 0x068 → P (readLeapTlv s n.toNat))
    (window : 0x068 ≤ n.toNat → n.toNat < 0x070 → P (readWindow s n.toNat))
    (port : 0x0E0 ≤ n.toNat → n.toNat < 0x100 → P (readPort s n.toNat))
    (context : 0x100 ≤ n.toNat → n.toNat < 0x180 →
      P (readContext s.sv[Fin.ofNat 2 ((n.toNat - 0x100) / 0x40)] (n.toNat % 0x40)))
    (now : n.toNat = 0x1F0 → P s.nowUs)
    (next : n.toNat = 0x1F1 → P s.tmNext)
    (timer : 0x200 ≤ n.toNat → n.toNat < 0x240 → P (readTimer s.tm[Fin.ofNat 8 ((n.toNat - 0x200) / 8)] (n.toNat % 8)))
    (gap : csrListed n.toNat = false → P 0) :
    P (csrValue s n) := by
  unfold csrValue
  refine iteInduction system fun _ => ?_
  refine iteInduction (operand (by omega)) fun _ => ?_
  refine iteInduction (fun _ => gap (csrListed_gap (by omega))) fun _ => ?_
  refine iteInduction (header (by omega)) fun _ => ?_
  refine iteInduction (announce (by omega)) fun _ => ?_
  refine iteInduction (leapTlv (by omega)) fun _ => ?_
  refine iteInduction (window (by omega)) fun _ => ?_
  refine iteInduction (fun _ => gap (csrListed_gap (by omega))) fun _ => ?_
  refine iteInduction (port (by omega)) fun _ => ?_
  refine iteInduction (context (by omega)) fun _ => ?_
  refine iteInduction now fun _ => ?_
  refine iteInduction next fun _ => ?_
  refine iteInduction (fun _ => gap (csrListed_gap (by omega))) fun _ => ?_
  exact iteInduction (timer (by omega)) fun _ => gap (csrListed_gap (by omega))

/-- What holds of each group's write, and of no change for the numbers that take none, holds of every CSR write. -/
theorem csrWrite_cases {P : State → Prop} (n : CsrNumber) (v : Reg) (s : State)
    (system : n.toNat < 0x010 → P (writeSystem v s n.toNat))
    (operand : 0x010 ≤ n.toNat → n.toNat < 0x034 → P (writeOperand v s n.toNat))
    (header : 0x040 ≤ n.toNat → n.toNat < 0x050 → P { s with hdr := writeHeader v s.hdr n.toNat })
    (announce : 0x050 ≤ n.toNat → n.toNat < 0x058 → P { s with ann := writeAnnounce v s.ann n.toNat })
    (leapTlv : 0x058 ≤ n.toNat → n.toNat < 0x068 → P (writeLeapTlv v s n.toNat))
    (window : 0x068 ≤ n.toNat → n.toNat < 0x070 → P (writeWindow v s n.toNat))
    (port : 0x0E0 ≤ n.toNat → n.toNat < 0x100 → P (writePort v s n.toNat))
    (context : 0x100 ≤ n.toNat → n.toNat < 0x180 → ∀ c : CtxId, c = Fin.ofNat 2 ((n.toNat - 0x100) / 0x40) →
      P { s with sv := s.sv.set c.val (writeContext v s.sv[c] (n.toNat % 0x40)) })
    (now : n.toNat = 0x1F0 → P { s with nowUs := v })
    (timer : 0x200 ≤ n.toNat → n.toNat < 0x240 → ∀ i : TmrId, i = Fin.ofNat 8 ((n.toNat - 0x200) / 8) →
      P (setTimer i (writeTimer v s.tm[i] (n.toNat % 8)) s))
    (ignored : csrListed n.toNat = false ∨ csrReadOnly n.toNat = true → P s) :
    P (csrWrite n v s) := by
  have hignored : ¬ n.toNat = 0x1F0 → 0x180 ≤ n.toNat → n.toNat < 0x200 →
      csrListed n.toNat = false ∨ csrReadOnly n.toNat = true := fun _ _ _ => by
    by_cases h : n.toNat = 0x1F1
    · exact .inr (by rw [h]; rfl)
    · exact .inl (csrListed_gap (by omega))
  unfold csrWrite
  refine iteInduction system fun _ => ?_
  refine iteInduction (operand (by omega)) fun _ => ?_
  refine iteInduction (fun _ => ignored (.inl (csrListed_gap (by omega)))) fun _ => ?_
  refine iteInduction (header (by omega)) fun _ => ?_
  refine iteInduction (announce (by omega)) fun _ => ?_
  refine iteInduction (leapTlv (by omega)) fun _ => ?_
  refine iteInduction (window (by omega)) fun _ => ?_
  refine iteInduction (fun _ => ignored (.inl (csrListed_gap (by omega)))) fun _ => ?_
  refine iteInduction (port (by omega)) fun _ => ?_
  refine iteInduction (fun h => context (by omega) h _ rfl) fun _ => ?_
  refine iteInduction now fun h => ?_
  refine iteInduction (fun _ => ignored (hignored h (by omega) ‹_›)) fun _ => ?_
  exact iteInduction (fun h => timer (by omega) h _ rfl) fun _ => ignored (.inl (csrListed_gap (by omega)))

/-- A CSR reads the same in two states in which the registers of its group do; a group whose registers are those of the other state
needs no argument. -/
theorem csrValue_congr {s t : State} {m : CsrNumber}
    (system : m.toNat < 0x010 → readSystem t m.toNat = readSystem s m.toNat := by intros; rfl)
    (operand : 0x010 ≤ m.toNat → m.toNat < 0x034 → readOperand t m.toNat = readOperand s m.toNat := by intros; rfl)
    (header : readHeader t.hdr m.toNat = readHeader s.hdr m.toNat := by rfl)
    (announce : readAnnounce t.ann m.toNat = readAnnounce s.ann m.toNat := by rfl)
    (leapTlv : readLeapTlv t m.toNat = readLeapTlv s m.toNat := by rfl)
    (window : readWindow t m.toNat = readWindow s m.toNat := by rfl)
    (port : readPort t m.toNat = readPort s m.toNat := by rfl)
    (context : 0x100 ≤ m.toNat → m.toNat < 0x180 →
      readContext t.sv[Fin.ofNat 2 ((m.toNat - 0x100) / 0x40)] (m.toNat % 0x40)
        = readContext s.sv[Fin.ofNat 2 ((m.toNat - 0x100) / 0x40)] (m.toNat % 0x40) := by intros; rfl)
    (now : m.toNat = 0x1F0 → t.nowUs = s.nowUs := by intros; rfl)
    (next : t.tmNext = s.tmNext := by rfl)
    (timer : 0x200 ≤ m.toNat → m.toNat < 0x240 →
      readTimer t.tm[Fin.ofNat 8 ((m.toNat - 0x200) / 8)] (m.toNat % 8)
        = readTimer s.tm[Fin.ofNat 8 ((m.toNat - 0x200) / 8)] (m.toNat % 8) := by intros; rfl) :
    csrValue t m = csrValue s m := by
  unfold csrValue
  refine ite_congr rfl system fun _ => ?_
  refine ite_congr rfl (operand (by omega)) fun _ => ?_
  refine ite_congr rfl (fun _ => rfl) fun _ => ?_
  refine ite_congr rfl (fun _ => header) fun _ => ?_
  refine ite_congr rfl (fun _ => announce) fun _ => ?_
  refine ite_congr rfl (fun _ => leapTlv) fun _ => ?_
  refine ite_congr rfl (fun _ => window) fun _ => ?_
  refine ite_congr rfl (fun _ => rfl) fun _ => ?_
  refine ite_congr rfl (fun _ => port) fun _ => ?_
  refine ite_congr rfl (context (by omega)) fun _ => ?_
  refine ite_congr rfl now fun _ => ?_
  refine ite_congr rfl (fun _ => next) fun _ => ?_
  refine ite_congr rfl (fun _ => rfl) fun _ => ?_
  exact ite_congr rfl (timer (by omega)) fun _ => rfl

theorem csrNumber_toNat_ne {m n : CsrNumber} (h : m ≠ n) : m.toNat ≠ n.toNat := fun e => h (BitVec.eq_of_toNat_eq e)

/-- `BUF_DATA` is the only CSR that shows `BUF`. -/
theorem readWindow_buf (s : State) (m : Memory) {a : Nat} (h : a ≠ 0x06D) : readWindow { s with buf := m } a = readWindow s a := by
  unfold readWindow
  split <;> first | rfl | exact absurd rfl h

end Sys2Proof.Machine
end

section
/-! SUPPORT. What each group of CSRs reads in the state after reset (R43). -/

namespace Sys2Proof.Machine

theorem readSystem_reset (a : Nat) : readSystem State.reset a = if a = 0x004 then idValue else 0 := by
  unfold readSystem
  split
  case h_9 => simp_all
  all_goals rfl

theorem ti_reset (i : TiReg) : State.reset.ti[i] = 0 := by
  revert i; decide

theorem ts_reset (k : TsReg) : State.reset.ts[k] = Timestamp.zero := by
  revert k; decide

theorem pid_reset (k : PidReg) : State.reset.pid[k] = ⟨0, 0⟩ := by
  revert k; decide

theorem sv_reset (c : CtxId) : State.reset.sv[c] = Context.reset := by
  revert c; decide

theorem flt_reset (f : FltId) : Context.reset.flt[f] = Filter.reset := by
  revert f; decide

theorem tm_reset (i : TmrId) : State.reset.tm[i] = Timer.reset (decide (i.val < 2)) := by
  revert i; decide

theorem readOperand_reset (a : Nat) : readOperand State.reset a = 0 := by
  simp only [readOperand, ti_reset, ts_reset, pid_reset]
  split_ifs <;> rfl

theorem readHeader_reset (a : Nat) : readHeader State.reset.hdr a = 0 := by
  unfold readHeader
  split <;> rfl

theorem readAnnounce_reset (a : Nat) : readAnnounce State.reset.ann a = 0 := by
  unfold readAnnounce
  split <;> rfl

theorem readLeapTlv_reset (a : Nat) : readLeapTlv State.reset a = 0 := by
  unfold readLeapTlv
  split <;> rfl

theorem readWindow_reset {a : Nat} (h : a ≠ 0x06D) : readWindow State.reset a = 0 := by
  unfold readWindow
  split <;> first | rfl | exact absurd rfl h

theorem readPort_reset (a : Nat) : readPort State.reset a = 0 := by
  unfold readPort
  split <;> rfl

theorem readServoConfig_reset (k : Nat) :
    readServoConfig ServoConfig.reset k
      = if k = 0x10 ∨ k = 0x11 then 0x000017D784000000 else if k = 0x13 then 0x7FFFFFFF else 0 := by
  unfold readServoConfig
  split
  case h_21 => simp_all
  all_goals rfl

theorem readServoState_zero (k : Nat) : readServoState ServoState.zero k = 0 := by
  unfold readServoState
  split <;> rfl

theorem readFilter_reset (j : Nat) : readFilter Filter.reset j = 0 := by
  unfold readFilter
  split <;> rfl

theorem readContext_reset (k : Nat) :
    readContext Context.reset k
      = if k = 0x10 ∨ k = 0x11 then 0x000017D784000000 else if k = 0x13 then 0x7FFFFFFF else 0 := by
  unfold readContext
  split
  · exact readServoConfig_reset k
  · rw [if_neg (show ¬ (k = 0x10 ∨ k = 0x11) by omega), if_neg (show ¬ k = 0x13 by omega)]
    split
    · exact readServoState_zero k
    · rw [flt_reset, readFilter_reset]

theorem readTimer_reset (settle : Bool) (j : Nat) :
    readTimer (Timer.reset settle) j = if j = 0 ∧ settle = true then 1 else 0 := by
  unfold readTimer
  split
  case h_7 => simp_all
  all_goals cases settle <;> rfl

/-- The table of R43 where it is zero. -/
theorem csrResetValue_eq_zero {a : Nat}
    (h : a ≠ 0x004 ∧ a ≠ 0x110 ∧ a ≠ 0x111 ∧ a ≠ 0x150 ∧ a ≠ 0x151 ∧ a ≠ 0x113 ∧ a ≠ 0x153 ∧ a ≠ 0x1F1 ∧ a ≠ 0x200 ∧ a ≠ 0x208) :
    csrResetValue a = 0 := by
  simp only [csrResetValue, h, false_or, ↓reduceIte]

theorem csrResetValue_of_unlisted {a : Nat} (h : csrListed a = false) : csrResetValue a = 0 := by
  have hne : ∀ b, csrListed b = true → a ≠ b := fun b hb e => by simp [← e, h] at hb
  exact csrResetValue_eq_zero ⟨hne _ rfl, hne _ rfl, hne _ rfl, hne _ rfl, hne _ rfl, hne _ rfl, hne _ rfl, hne _ rfl, hne _ rfl,
    hne _ rfl⟩

/-- The table of R43, group by group. -/
theorem csrValue_reset {n : CsrNumber} (h : n ≠ csrBufData) : csrValue State.reset n = csrResetValue n.toNat := by
  have hdata : n.toNat ≠ 0x06D := csrNumber_toNat_ne h
  refine csrValue_cases (P := fun x => x = csrResetValue n.toNat) State.reset n
    (system := fun _ => ?_) (context := fun _ _ => ?_) (timer := fun _ _ => ?_)
    (operand := fun _ _ => (readOperand_reset _).trans (csrResetValue_eq_zero (by omega)).symm)
    (header := fun _ _ => (readHeader_reset _).trans (csrResetValue_eq_zero (by omega)).symm)
    (announce := fun _ _ => (readAnnounce_reset _).trans (csrResetValue_eq_zero (by omega)).symm)
    (leapTlv := fun _ _ => (readLeapTlv_reset _).trans (csrResetValue_eq_zero (by omega)).symm)
    (window := fun _ _ => (readWindow_reset hdata).trans (csrResetValue_eq_zero (by omega)).symm)
    (port := fun _ _ => (readPort_reset _).trans (csrResetValue_eq_zero (by omega)).symm)
    (now := fun e => by rw [e]; rfl) (next := fun e => by rw [e]; rfl)
    (gap := fun hg => (csrResetValue_of_unlisted hg).symm)
  · rw [readSystem_reset]
    split
    · rename_i e
      rw [e]; rfl
    · exact (csrResetValue_eq_zero (by omega)).symm
  · rw [sv_reset, readContext_reset, csrResetValue]
    split_ifs <;> first | rfl | omega
  · rw [tm_reset, readTimer_reset, csrResetValue]
    simp only [Fin.ofNat, decide_eq_true_eq]
    split_ifs <;> first | rfl | omega

/-- Settles O11: the reset transaction differs from the state after reset in `BUF` and the inputs only, and no CSR but `BUF_DATA` shows
them. -/
theorem resetValues : Obligations.ResetValues := by
  unfold Obligations.ResetValues
  have irq_reset : irq State.reset = false := rfl
  refine ⟨fun n hn => csrValue_reset hn, irq_reset, fun s rest hnext => ?_, fun s t ht => ?_⟩
  · refine ⟨_, step_of_next_reset hnext, fun n hn => ?_, irq_reset⟩
    rw [← csrValue_reset hn]
    exact csrValue_congr (window := readWindow_buf State.reset _ (csrNumber_toNat_ne hn))
  · have hexec : exec .sysReset s = .next (complete (resetCsrs s) false) := rfl
    rw [Answers, hexec] at ht
    cases ht
    rfl

end Sys2Proof.Machine
end

section
/-! SUPPORT. What a CSR of each group of R44 reads. -/

namespace Sys2Proof.Machine

variable {s : State} {n : CsrNumber}

theorem csrValue_system (h : n.toNat < 0x010) : csrValue s n = readSystem s n.toNat := if_pos h

theorem csrValue_operand (h1 : 0x010 ≤ n.toNat) (h2 : n.toNat < 0x034) : csrValue s n = readOperand s n.toNat := by
  unfold csrValue
  rw [if_neg (by omega), if_pos h2]

theorem csrValue_header (h1 : 0x040 ≤ n.toNat) (h2 : n.toNat < 0x050) : csrValue s n = readHeader s.hdr n.toNat := by
  unfold csrValue
  iterate 3 rw [if_neg (by omega)]
  rw [if_pos h2]

theorem csrValue_announce (h1 : 0x050 ≤ n.toNat) (h2 : n.toNat < 0x058) : csrValue s n = readAnnounce s.ann n.toNat := by
  unfold csrValue
  iterate 4 rw [if_neg (by omega)]
  rw [if_pos h2]

theorem csrValue_leapTlv (h1 : 0x058 ≤ n.toNat) (h2 : n.toNat < 0x068) : csrValue s n = readLeapTlv s n.toNat := by
  unfold csrValue
  iterate 5 rw [if_neg (by omega)]
  rw [if_pos h2]

theorem csrValue_window (h1 : 0x068 ≤ n.toNat) (h2 : n.toNat < 0x070) : csrValue s n = readWindow s n.toNat := by
  unfold csrValue
  iterate 6 rw [if_neg (by omega)]
  rw [if_pos h2]

theorem csrValue_port (h1 : 0x0E0 ≤ n.toNat) (h2 : n.toNat < 0x100) : csrValue s n = readPort s n.toNat := by
  unfold csrValue
  iterate 8 rw [if_neg (by omega)]
  rw [if_pos h2]

theorem csrValue_context (c : CtxId) (h1 : 0x100 + 0x40 * c.val ≤ n.toNat) (h2 : n.toNat < 0x100 + 0x40 * c.val + 0x40) :
    csrValue s n = readContext s.sv[c] (n.toNat - (0x100 + 0x40 * c.val)) := by
  unfold csrValue
  iterate 9 rw [if_neg (by omega)]
  rw [if_pos (by omega)]
  have hk : n.toNat % 0x40 = n.toNat - (0x100 + 0x40 * c.val) := by omega
  have hc : Fin.ofNat 2 ((n.toNat - 0x100) / 0x40) = c := Fin.ext (by simp only [Fin.ofNat]; omega)
  exact congrArg₂ (fun d k => readContext s.sv[d] k) hc hk

theorem csrValue_now (h : n.toNat = 0x1F0) : csrValue s n = s.nowUs := by
  unfold csrValue
  iterate 10 rw [if_neg (by omega)]
  rw [if_pos h]

theorem csrValue_next (h : n.toNat = 0x1F1) : csrValue s n = s.tmNext := by
  unfold csrValue
  iterate 11 rw [if_neg (by omega)]
  rw [if_pos h]

theorem csrValue_timer (i : TmrId) (h1 : 0x200 + 8 * i.val ≤ n.toNat) (h2 : n.toNat < 0x200 + 8 * i.val + 8) :
    csrValue s n = readTimer s.tm[i] (n.toNat - (0x200 + 8 * i.val)) := by
  unfold csrValue
  iterate 13 rw [if_neg (by omega)]
  rw [if_pos (by omega)]
  have hj : n.toNat % 8 = n.toNat - (0x200 + 8 * i.val) := by omega
  have hi : Fin.ofNat 8 ((n.toNat - 0x200) / 8) = i := Fin.ext (by simp only [Fin.ofNat]; omega)
  exact congrArg₂ (fun k j => readTimer s.tm[k] j) hi hj

end Sys2Proof.Machine
end

section
/-! SUPPORT. A CSR as the bits of its fields: each field of a list shows its number in the image the list makes of a CSR, when no two
fields of one CSR overlap, and every other bit of the image is zero. -/

namespace Sys2Proof.Machine

/-- The field in its place, zeros around it. -/
def CsrField.image (r : CsrField) : Reg := fieldAt r.lo (BitVec.ofNat r.width r.value)

/-- The value of the CSR `n` made of the fields that a list gives it. -/
def imageOf : List CsrField → Nat → Reg
  | [], _ => 0
  | r :: fs, n => (if n = r.num then r.image else 0) ||| imageOf fs n

/-- The field lies inside its CSR and holds its number. -/
def CsrField.Fits (r : CsrField) : Prop := r.lo + r.width ≤ 64 ∧ r.value < 2 ^ r.width

/-- Two fields are in different CSRs or have no bit in common. -/
def CsrField.apart (r q : CsrField) : Bool :=
  r.num != q.num || decide (r.lo + r.width ≤ q.lo) || decide (q.lo + q.width ≤ r.lo)

/-- No two fields of a list overlap. -/
def allApart : List CsrField → Bool
  | [] => true
  | r :: fs => fs.all (fun q => r.apart q) && allApart fs

@[simp] theorem bitsAt_num (num lo : Nat) {w : Nat} (v : BitVec w) : (bitsAt num lo v).num = num := rfl

@[simp] theorem oneBit_num (num lo : Nat) (b : Bool) : (oneBit num lo b).num = num := rfl

@[simp] theorem image_bitsAt (num lo : Nat) {w : Nat} (v : BitVec w) : (bitsAt num lo v).image = fieldAt lo v := by
  simp [CsrField.image, bitsAt]

@[simp] theorem image_oneBit (num lo : Nat) (b : Bool) : (oneBit num lo b).image = bitAt lo b := by
  cases b <;> simp [CsrField.image, oneBit, fieldAt, bitAt]

@[simp] theorem fits_bitsAt (num lo : Nat) {w : Nat} (v : BitVec w) : (bitsAt num lo v).Fits ↔ lo + w ≤ 64 := by
  simp [CsrField.Fits, bitsAt, v.isLt]

@[simp] theorem fits_oneBit (num lo : Nat) (b : Bool) : (oneBit num lo b).Fits ↔ lo + 1 ≤ 64 := by
  simp [CsrField.Fits, oneBit, Bool.toNat_le]

@[simp] theorem imageOf_append (fs gs : List CsrField) (n : Nat) : imageOf (fs ++ gs) n = imageOf fs n ||| imageOf gs n := by
  induction fs with
  | nil => simp [imageOf]
  | cons r fs ih => simp [imageOf, ih, BitVec.or_assoc]

/-- A list without fields of the CSR `n` makes zero of it. -/
theorem imageOf_eq_zero {fs : List CsrField} {n : Nat} (h : ∀ r ∈ fs, r.num ≠ n) : imageOf fs n = 0 := by
  induction fs with
  | nil => rfl
  | cons r fs ih =>
    obtain ⟨hr, hfs⟩ := List.forall_mem_cons.mp h
    simp [imageOf, hr.symm, ih hfs]

theorem getLsbD_image (r : CsrField) (k : Nat) :
    r.image.getLsbD k = (decide (k < 64) && decide (r.lo ≤ k) && (BitVec.ofNat r.width r.value).getLsbD (k - r.lo)) :=
  getLsbD_fieldAt _ _ _

/-- A field has no bit outside its place. -/
theorem image_outside {r : CsrField} {k : Nat} (h : k < r.lo ∨ r.lo + r.width ≤ k) : r.image.getLsbD k = false := by
  rw [getLsbD_image]
  rcases h with h | h
  · simp [show ¬ r.lo ≤ k by omega]
  · simp [BitVec.getLsbD_of_ge _ (k - r.lo) (show r.width ≤ k - r.lo by omega)]

theorem getLsbD_imageOf (fs : List CsrField) (n k : Nat) :
    (imageOf fs n).getLsbD k = true ↔ ∃ r ∈ fs, r.num = n ∧ r.image.getLsbD k = true := by
  induction fs with
  | nil => simp [imageOf]
  | cons r fs ih =>
    simp only [imageOf, BitVec.getLsbD_or, Bool.or_eq_true, ih, List.exists_mem_cons_iff]
    by_cases hr : r.num = n <;> simp [hr, Ne.symm]

theorem imageOf_outside {fs : List CsrField} {n k : Nat} (h : ∀ r ∈ fs, r.num = n → k < r.lo ∨ r.lo + r.width ≤ k) :
    (imageOf fs n).getLsbD k = false := by
  rw [← Bool.not_eq_true, getLsbD_imageOf]
  rintro ⟨r, hr, hn, hk⟩
  rw [image_outside (h r hr hn)] at hk
  exact absurd hk Bool.false_ne_true

theorem apart_of_allApart {fs : List CsrField} (h : allApart fs = true) {r q : CsrField} (hr : r ∈ fs) (hq : q ∈ fs) :
    q = r ∨ (r.num = q.num → r.lo + r.width ≤ q.lo ∨ q.lo + q.width ≤ r.lo) := by
  induction fs with
  | nil => cases hr
  | cons p fs ih =>
    simp only [allApart, Bool.and_eq_true, List.all_eq_true, CsrField.apart, Bool.or_eq_true, bne_iff_ne, decide_eq_true_eq] at h
    obtain ⟨hp, hfs⟩ := h
    rcases List.mem_cons.mp hr with hrp | hrs <;> rcases List.mem_cons.mp hq with hqp | hqs
    · exact .inl (hqp.trans hrp.symm)
    · subst hrp
      have := hp q hqs
      exact .inr (by omega)
    · subst hqp
      have := hp r hrs
      exact .inr (by omega)
    · exact ih hfs hrs hqs

/-- A field of a list without overlaps shows its number in the image. -/
theorem field_imageOf {fs : List CsrField} (ha : allApart fs = true) (hf : ∀ r ∈ fs, r.Fits) {r : CsrField} (hr : r ∈ fs) :
    (imageOf fs r.num).toNat / 2 ^ r.lo % 2 ^ r.width = r.value := by
  obtain ⟨hw, hv⟩ := hf r hr
  have himage : ∀ k, k < r.width →
      (imageOf fs r.num).getLsbD (r.lo + k) = (BitVec.ofNat r.width r.value).getLsbD k := fun k hk => by
    have hbit : r.image.getLsbD (r.lo + k) = (BitVec.ofNat r.width r.value).getLsbD k := by
      rw [getLsbD_image]
      simp [show r.lo + k < 64 by omega]
    rw [← hbit, Bool.eq_iff_iff, getLsbD_imageOf]
    constructor
    · rintro ⟨q, hq, hn, hk'⟩
      rcases apart_of_allApart ha hr hq with rfl | hdisj
      · exact hk'
      · have := hdisj hn.symm
        rw [image_outside (by omega)] at hk'
        exact absurd hk' Bool.false_ne_true
    · exact fun hk' => ⟨r, hr, rfl, hk'⟩
  rw [field_eq himage, BitVec.toNat_ofNat, Nat.mod_eq_of_lt hv]

end Sys2Proof.Machine
end

section
/-! SUPPORT. The images of the groups of R44: what a group reads is made of the fields its table gives it. -/

namespace Sys2Proof.Machine

theorem low_eq_fieldAt {w : Nat} (v : BitVec w) : low v = fieldAt 0 v := by
  simp [low, fieldAt]

@[simp] theorem fieldAt_zero_reg (v : Reg) : fieldAt 0 v = v := by
  simp [fieldAt]

theorem settling_eq (c : BitVec 4) : settling c = decide (c.toNat = 2 ∨ c.toNat = 6) := by
  revert c; decide

theorem image_svActive (num lo : Nat) (c : CtxId) : (CsrField.mk num lo 1 c.val).image = bitAt lo (c == 1) := by
  fin_cases c <;> simp [CsrField.image, fieldAt, bitAt]

theorem image_bufData (num : Nat) (s : State) :
    (CsrField.mk num 0 8 (if s.win.addr.toNat < 2048 then (readByte s.buf s.win.addr.toNat).toNat else 0)).image = bufDataValue s := by
  unfold bufDataValue bufBytes
  split <;> simp [CsrField.image, low_eq_fieldAt, fieldAt, *]

theorem statusImage_image (s : State) : statusImage s = imageOf (systemFields s) 0x001 := by
  simp [systemFields, imageOf, image_svActive, statusImage, activeContext, settling_eq, BitVec.or_assoc]

theorem readSystem_image (s : State) (a : Nat) : readSystem s a = imageOf (systemFields s) a := by
  unfold readSystem
  split
  case h_2 => exact statusImage_image s
  case h_5 => simp [systemFields, imageOf, CsrField.image, idValue]
  case h_9 => exact (imageOf_eq_zero (by simp_all [systemFields, eq_comm])).symm
  all_goals simp [systemFields, imageOf, low_eq_fieldAt]

theorem timestampFields_image (b : Nat) (t : Timestamp) (a : Nat) :
    imageOf (timestampFields b t) a = if a = b then tsLo t else if a = b + 1 then tsHi t else 0 := by
  by_cases h0 : a = b
  · simp [timestampFields, imageOf, tsLo, h0, BitVec.or_comm]
  · by_cases h1 : a = b + 1
    · simp [timestampFields, imageOf, tsHi, h1, BitVec.or_comm]
    · simp [timestampFields, imageOf, h0, h1]

/-- The operand registers in `imageOf (operandFields s)`, register file by register file. -/
theorem ti_image (s : State) (i : TiReg) : s.ti[i] = imageOf (operandFields s) (0x010 + i.val) := by
  fin_cases i <;> simp [operandFields, imageOf, List.finRange, timestampFields_image]

theorem tsLo_image (s : State) (k : TsReg) : tsLo s.ts[k] = imageOf (operandFields s) (0x020 + 2 * k.val) := by
  fin_cases k <;> simp [operandFields, imageOf, List.finRange, timestampFields_image]

theorem tsHi_image (s : State) (k : TsReg) : tsHi s.ts[k] = imageOf (operandFields s) (0x021 + 2 * k.val) := by
  fin_cases k <;> simp [operandFields, imageOf, List.finRange, timestampFields_image]

theorem cid_image (s : State) (k : PidReg) : s.pid[k].cid = imageOf (operandFields s) (0x030 + 2 * k.val) := by
  fin_cases k <;> simp [operandFields, imageOf, List.finRange, timestampFields_image]

theorem port_image (s : State) (k : PidReg) : low s.pid[k].port = imageOf (operandFields s) (0x031 + 2 * k.val) := by
  fin_cases k <;> simp [operandFields, imageOf, List.finRange, timestampFields_image, low_eq_fieldAt]

theorem readOperand_image (s : State) (a : Nat) (h1 : 0x010 ≤ a) (h2 : a < 0x034) :
    readOperand s a = imageOf (operandFields s) a := by
  have hgap : 0x018 ≤ a ∧ a < 0x020 ∨ 0x028 ≤ a ∧ a < 0x030 → imageOf (operandFields s) a = 0 := fun h =>
    imageOf_eq_zero (by simp [operandFields, timestampFields, List.finRange]; omega)
  unfold readOperand
  split_ifs
  · rw [ti_image]
    congr 1
    simp only [Fin.ofNat]
    omega
  · exact (hgap (by omega)).symm
  · rw [tsLo_image]
    congr 1
    simp only [Fin.ofNat]
    omega
  · rw [tsHi_image]
    congr 1
    simp only [Fin.ofNat]
    omega
  · exact (hgap (by omega)).symm
  · rw [cid_image]
    congr 1
    simp only [Fin.ofNat]
    omega
  · rw [port_image]
    congr 1
    simp only [Fin.ofNat]
    omega

theorem readHeader_image (s : State) (a : Nat) (h1 : 0x040 ≤ a) (h2 : a < 0x050) :
    readHeader s.hdr a = imageOf (messageFields s) a := by
  unfold readHeader
  split
  case h_11 => exact (imageOf_eq_zero (by simp_all [messageFields, eq_comm]; omega)).symm
  all_goals simp [messageFields, imageOf, low_eq_fieldAt, BitVec.or_assoc]

theorem readAnnounce_image (s : State) (a : Nat) (h1 : 0x050 ≤ a) (h2 : a < 0x058) :
    readAnnounce s.ann a = imageOf (messageFields s) a := by
  unfold readAnnounce
  split
  case h_8 => exact (imageOf_eq_zero (by simp_all [messageFields, eq_comm]; omega)).symm
  all_goals simp [messageFields, imageOf, low_eq_fieldAt, BitVec.or_assoc]

theorem readLeapTlv_image (s : State) (a : Nat) (h1 : 0x058 ≤ a) (h2 : a < 0x068) :
    readLeapTlv s a = imageOf (messageFields s) a := by
  unfold readLeapTlv
  split
  case h_8 => exact (imageOf_eq_zero (by simp_all [messageFields, eq_comm]; omega)).symm
  all_goals simp [messageFields, imageOf, low_eq_fieldAt, BitVec.or_assoc]

theorem readWindow_image (s : State) (a : Nat) : readWindow s a = imageOf (windowFields s) a := by
  unfold readWindow
  split
  case h_7 => exact (imageOf_eq_zero (by simp_all [windowFields, eq_comm])).symm
  all_goals simp [windowFields, imageOf, image_bufData, low_eq_fieldAt]

theorem readPort_image (s : State) (a : Nat) (h : a < 0x100) : readPort s a = imageOf (portFields s) a := by
  unfold readPort
  split
  case h_7 => exact (imageOf_eq_zero (by simp_all [portFields, eq_comm]; omega)).symm
  all_goals simp [portFields, imageOf, image_svActive, ccLastImage, BitVec.or_assoc]

theorem readServoConfig_image (b : Nat) (g : ServoConfig) (k : Nat) :
    readServoConfig g k = imageOf (servoConfigFields b g) (b + k) := by
  unfold readServoConfig
  split
  case h_21 => exact (imageOf_eq_zero (by simp_all [servoConfigFields, eq_comm])).symm
  all_goals simp [servoConfigFields, imageOf, low_eq_fieldAt, BitVec.or_assoc]

theorem readServoState_image (b : Nat) (x : ServoState) (k : Nat) :
    readServoState x k = imageOf (servoStateFields b x) (b + k) := by
  unfold readServoState
  split
  case h_23 => exact (imageOf_eq_zero (by simp_all [servoStateFields, timestampFields, eq_comm]; omega)).symm
  all_goals simp [servoStateFields, servoStateImage, imageOf, timestampFields_image, low_eq_fieldAt, BitVec.or_assoc]

theorem readFilter_image (b : Nat) (x : Filter) (j : Nat) : readFilter x j = imageOf (filterFields b x) (b + j) := by
  unfold readFilter
  split
  case h_9 => exact (imageOf_eq_zero (by simp_all [filterFields, eq_comm])).symm
  all_goals simp [filterFields, imageOf, low_eq_fieldAt]

theorem readTimer_image (b : Nat) (x : Timer) (j : Nat) : readTimer x j = imageOf (timerFields b x) (b + j) := by
  unfold readTimer
  split
  case h_7 => exact (imageOf_eq_zero (by simp_all [timerFields, eq_comm])).symm
  all_goals simp [timerFields, imageOf, timerCtrlImage, low_eq_fieldAt, BitVec.or_assoc]

end Sys2Proof.Machine
end

section
/-! SUPPORT. The groups of R44 as lists of fields that show their registers: their numbers, that they fit and do not overlap, and that the
CSRs of the group are their images. -/

namespace Sys2Proof.Machine

theorem readServoConfig_beyond (g : ServoConfig) {k : Nat} (h : 0x18 ≤ k) : readServoConfig g k = 0 := by
  unfold readServoConfig
  split <;> first | rfl | omega

theorem readServoState_outside (x : ServoState) {k : Nat} (h : k < 0x18 ∨ 0x30 ≤ k) : readServoState x k = 0 := by
  unfold readServoState
  split <;> first | rfl | omega

theorem filterFields_numbers (b : Nat) (x : Filter) : ∀ r ∈ filterFields b x, b ≤ r.num ∧ r.num < b + 8 := by
  simp [filterFields]

theorem contextFields_eq (b : Nat) (x : Context) :
    contextFields b x = servoConfigFields b x.cfg ++ servoStateFields b x.st ++
      (filterFields (b + 0x30) x.flt[(0 : FltId)] ++ filterFields (b + 0x38) x.flt[(1 : FltId)]) := by
  simp [contextFields, List.finRange]

theorem filterFields_outside (b : Nat) (x : Filter) {a : Nat} (h : a < b ∨ b + 8 ≤ a) : imageOf (filterFields b x) a = 0 :=
  imageOf_eq_zero fun r hr => by
    have := filterFields_numbers b x r hr
    omega

theorem readContext_image (b : Nat) (x : Context) (k : Nat) (hk : k < 0x40) :
    readContext x k = imageOf (contextFields b x) (b + k) := by
  simp only [contextFields_eq, imageOf_append, ← readServoConfig_image, ← readServoState_image]
  unfold readContext
  split_ifs with hcfg hst
  · simp [readServoState_outside x.st (.inl hcfg), filterFields_outside (b + 0x30) _ (.inl (show b + k < b + 0x30 by omega)),
      filterFields_outside (b + 0x38) _ (.inl (show b + k < b + 0x38 by omega))]
  · simp [readServoConfig_beyond x.cfg (Nat.le_of_not_lt hcfg),
      filterFields_outside (b + 0x30) _ (.inl (show b + k < b + 0x30 by omega)),
      filterFields_outside (b + 0x38) _ (.inl (show b + k < b + 0x38 by omega))]
  · rw [readServoConfig_beyond x.cfg (Nat.le_of_not_lt hcfg), readServoState_outside x.st (.inr (Nat.le_of_not_lt hst))]
    by_cases h : k < 0x38
    · rw [filterFields_outside (b + 0x38) _ (.inl (show b + k < b + 0x38 by omega)),
        show b + k = b + 0x30 + k % 8 by omega, ← readFilter_image]
      have hf : Fin.ofNat 2 ((k - 0x30) / 8) = 0 := Fin.ext (by simp only [Fin.ofNat]; omega)
      have hflt : x.flt[Fin.ofNat 2 ((k - 0x30) / 8)] = x.flt[(0 : FltId)] := congrArg (fun f : FltId => x.flt[f]) hf
      rw [hflt]
      simp
    · rw [filterFields_outside (b + 0x30) _ (.inr (show b + 0x30 + 8 ≤ b + k by omega)),
        show b + k = b + 0x38 + k % 8 by omega, ← readFilter_image]
      have hf : Fin.ofNat 2 ((k - 0x30) / 8) = 1 := Fin.ext (by simp only [Fin.ofNat]; omega)
      have hflt : x.flt[Fin.ofNat 2 ((k - 0x30) / 8)] = x.flt[(1 : FltId)] := congrArg (fun f : FltId => x.flt[f]) hf
      rw [hflt]
      simp

theorem fits_svActive (num lo : Nat) (c : CtxId) : (CsrField.mk num lo 1 c.val).Fits ↔ lo + 1 ≤ 64 := by
  simp only [CsrField.Fits, and_iff_left_iff_imp]
  omega

theorem fits_bufData (num : Nat) (s : State) :
    (CsrField.mk num 0 8 (if s.win.addr.toNat < 2048 then (readByte s.buf s.win.addr.toNat).toNat else 0)).Fits := by
  refine ⟨by simp, ?_⟩
  dsimp only
  split <;> omega

theorem fits_idValue (num : Nat) : (CsrField.mk num 0 64 0x50534507).Fits := by
  simp [CsrField.Fits]

theorem servoConfigFields_numbers (b : Nat) (g : ServoConfig) : ∀ r ∈ servoConfigFields b g, b ≤ r.num ∧ r.num ≤ b + 0x13 := by
  simp [servoConfigFields]

theorem servoStateFields_numbers (b : Nat) (x : ServoState) :
    ∀ r ∈ servoStateFields b x, b + 0x18 ≤ r.num ∧ r.num ≤ b + 0x2D := by
  simp [servoStateFields, timestampFields, Nat.add_assoc]

theorem contextFields_numbers (b : Nat) (x : Context) : ∀ r ∈ contextFields b x,
    b ≤ r.num ∧ r.num < b + 0x40 ∧ (r.num ≤ b + 0x13 ∨ b + 0x18 ≤ r.num ∧ r.num ≤ b + 0x2D ∨ b + 0x30 ≤ r.num) := fun r hr => by
  simp only [contextFields_eq, List.mem_append] at hr
  rcases hr with (h | h) | h | h
  · have := servoConfigFields_numbers b _ r h
    omega
  · have := servoStateFields_numbers b _ r h
    omega
  · have := filterFields_numbers (b + 0x30) _ r h
    omega
  · have := filterFields_numbers (b + 0x38) _ r h
    omega

theorem timerFields_numbers (b : Nat) (x : Timer) : ∀ r ∈ timerFields b x, b ≤ r.num ∧ r.num ≤ b + 5 := by
  simp [timerFields]

/-- A list of fields shows the CSRs whose numbers satisfy `P`. -/
structure Shown (s : State) (fs : List CsrField) (P : Nat → Prop) : Prop where
  below : ∀ a, P a → a < 4096
  numbers : ∀ r ∈ fs, P r.num
  listed : fs.all (fun r => csrListed r.num) = true
  fits : ∀ r ∈ fs, r.Fits
  apart : allApart fs = true
  value : ∀ n : CsrNumber, P n.toNat → csrValue s n = imageOf fs n.toNat

/-- Each of its fields shows its number. -/
theorem Shown.field {s : State} {fs : List CsrField} {P : Nat → Prop} (h : Shown s fs P) {r : CsrField} (hr : r ∈ fs) :
    (csrValue s (BitVec.ofNat 12 r.num)).toNat / 2 ^ r.lo % 2 ^ r.width = r.value := by
  have hnum : (BitVec.ofNat 12 r.num).toNat = r.num := by
    rw [BitVec.toNat_ofNat]
    exact Nat.mod_eq_of_lt (h.below _ (h.numbers r hr))
  rw [h.value _ (by rw [hnum]; exact h.numbers r hr), hnum]
  exact field_imageOf h.apart h.fits hr

/-- An unlisted number among them reads zero. -/
theorem Shown.unlisted {s : State} {fs : List CsrField} {P : Nat → Prop} (h : Shown s fs P) {n : CsrNumber} (hn : P n.toNat)
    (hl : csrListed n.toNat = false) : csrValue s n = 0 := by
  rw [h.value n hn]
  refine imageOf_eq_zero fun r hr e => ?_
  have := List.all_eq_true.mp h.listed r hr
  rw [e, hl] at this
  exact absurd this Bool.false_ne_true

/-- A bit outside its fields is zero. -/
theorem Shown.outside {s : State} {fs : List CsrField} {P : Nat → Prop} (h : Shown s fs P) {n : CsrNumber} {k : Nat}
    (hn : P n.toNat) (hk : ∀ r ∈ fs, r.num = n.toNat → k < r.lo ∨ r.lo + r.width ≤ k) : (csrValue s n).getLsbD k = false := by
  rw [h.value n hn]
  exact imageOf_outside hk

theorem systemFields_shown (s : State) : Shown s (systemFields s) (· < 0x010) where
  below a ha := by omega
  numbers := by simp [systemFields]
  listed := rfl
  fits := by simp [systemFields, fits_svActive, fits_idValue]
  apart := rfl
  value n hn := by rw [csrValue_system hn, readSystem_image]

theorem operandFields_shown (s : State) : Shown s (operandFields s) (fun a => 0x010 ≤ a ∧ a < 0x034) where
  below a ha := by omega
  numbers := by simp [operandFields, timestampFields, List.finRange]
  listed := rfl
  fits := by simp [operandFields, timestampFields, List.finRange]
  apart := rfl
  value n hn := by rw [csrValue_operand hn.1 hn.2, readOperand_image s _ hn.1 hn.2]

theorem messageFields_shown (s : State) : Shown s (messageFields s) (fun a => 0x040 ≤ a ∧ a < 0x068) where
  below a ha := by omega
  numbers := by simp [messageFields]
  listed := rfl
  fits := by simp [messageFields]
  apart := rfl
  value n hn := by
    by_cases h1 : n.toNat < 0x050
    · rw [csrValue_header hn.1 h1, readHeader_image s _ hn.1 h1]
    · by_cases h2 : n.toNat < 0x058
      · rw [csrValue_announce (by omega) h2, readAnnounce_image s _ (by omega) h2]
      · rw [csrValue_leapTlv (by omega) hn.2, readLeapTlv_image s _ (by omega) hn.2]

theorem windowFields_shown (s : State) : Shown s (windowFields s) (fun a => 0x068 ≤ a ∧ a < 0x070) where
  below a ha := by omega
  numbers := by simp [windowFields]
  listed := rfl
  fits := by simp [windowFields, fits_bufData]
  apart := rfl
  value n hn := by rw [csrValue_window hn.1 hn.2, readWindow_image]

theorem portFields_shown (s : State) :
    Shown s (portFields s) (fun a => 0x0E0 ≤ a ∧ a < 0x100 ∨ a = 0x1F0 ∨ a = 0x1F1) where
  below a ha := by omega
  numbers := by simp [portFields]
  listed := rfl
  fits := by simp [portFields, fits_svActive]
  apart := rfl
  value n hn := by
    rcases hn with ⟨h1, h2⟩ | h | h
    · rw [csrValue_port h1 h2, readPort_image s _ h2]
    · rw [csrValue_now h, h]
      simp [portFields, imageOf]
    · rw [csrValue_next h, h]
      simp [portFields, imageOf]

theorem contextFields_shown (s : State) (c : CtxId) :
    Shown s (contextFields (0x100 + 0x40 * c.val) s.sv[c]) (fun a => 0x100 + 0x40 * c.val ≤ a ∧ a < 0x100 + 0x40 * c.val + 0x40) where
  below a ha := by omega
  numbers r hr := by
    obtain ⟨h1, h2, -⟩ := contextFields_numbers _ _ r hr
    exact ⟨h1, h2⟩
  listed := List.all_eq_true.mpr fun r hr => by
    have := contextFields_numbers _ _ r hr
    simp only [csrListed, Bool.or_eq_true, Bool.and_eq_true, decide_eq_true_eq, beq_iff_eq]
    omega
  fits := by simp [contextFields_eq, servoConfigFields, servoStateFields, timestampFields, filterFields]
  apart := by fin_cases c <;> rfl
  value n hn := by
    rw [csrValue_context c hn.1 hn.2, readContext_image (0x100 + 0x40 * c.val) _ _ (by omega), Nat.add_sub_of_le hn.1]

theorem timerFields_shown (s : State) (i : TmrId) :
    Shown s (timerFields (0x200 + 8 * i.val) s.tm[i]) (fun a => 0x200 + 8 * i.val ≤ a ∧ a < 0x200 + 8 * i.val + 8) where
  below a ha := by omega
  numbers r hr := by
    have := timerFields_numbers _ _ r hr
    omega
  listed := List.all_eq_true.mpr fun r hr => by
    have := timerFields_numbers _ _ r hr
    simp only [csrListed, Bool.or_eq_true, Bool.and_eq_true, decide_eq_true_eq, beq_iff_eq]
    omega
  fits := by simp [timerFields]
  apart := by fin_cases i <;> rfl
  value n hn := by
    rw [csrValue_timer i hn.1 hn.2, readTimer_image (0x200 + 8 * i.val), Nat.add_sub_of_le hn.1]

/-- Every number is in one of the groups or between them. -/
theorem csr_group (a : Nat) :
    a < 0x010 ∨ (0x010 ≤ a ∧ a < 0x034) ∨ (0x040 ≤ a ∧ a < 0x068) ∨ (0x068 ≤ a ∧ a < 0x070)
      ∨ (0x0E0 ≤ a ∧ a < 0x100 ∨ a = 0x1F0 ∨ a = 0x1F1)
      ∨ (∃ c : CtxId, 0x100 + 0x40 * c.val ≤ a ∧ a < 0x100 + 0x40 * c.val + 0x40)
      ∨ (∃ i : TmrId, 0x200 + 8 * i.val ≤ a ∧ a < 0x200 + 8 * i.val + 8)
      ∨ (0x034 ≤ a ∧ a < 0x040 ∨ 0x070 ≤ a ∧ a < 0x0E0 ∨ 0x180 ≤ a ∧ a < 0x1F0 ∨ 0x1F2 ≤ a ∧ a < 0x200 ∨ 0x240 ≤ a) := by
  by_cases hc : 0x100 ≤ a ∧ a < 0x180
  · exact .inr (.inr (.inr (.inr (.inr (.inl ⟨⟨(a - 0x100) / 0x40, by omega⟩, by dsimp only; omega⟩)))))
  · by_cases ht : 0x200 ≤ a ∧ a < 0x240
    · exact .inr (.inr (.inr (.inr (.inr (.inr (.inl ⟨⟨(a - 0x200) / 8, by omega⟩, by dsimp only; omega⟩))))))
    · omega

/-- A number between the groups reads zero. -/
theorem csrValue_gap (s : State) {n : CsrNumber}
    (h : 0x034 ≤ n.toNat ∧ n.toNat < 0x040 ∨ 0x070 ≤ n.toNat ∧ n.toNat < 0x0E0 ∨ 0x180 ≤ n.toNat ∧ n.toNat < 0x1F0
      ∨ 0x1F2 ≤ n.toNat ∧ n.toNat < 0x200 ∨ 0x240 ≤ n.toNat) : csrValue s n = 0 := by
  refine csrValue_cases (P := fun x => x = 0) s n ?_ ?_ ?_ ?_ ?_ ?_ ?_ ?_ ?_ ?_ ?_ (fun _ => rfl)
  all_goals intros; omega

/-- An unlisted number reads zero (R29). -/
theorem csrValue_unlisted (s : State) {n : CsrNumber} (h : csrListed n.toNat = false) : csrValue s n = 0 := by
  rcases csr_group n.toNat with hn | hn | hn | hn | hn | ⟨c, hn⟩ | ⟨i, hn⟩ | hn
  · exact (systemFields_shown s).unlisted hn h
  · exact (operandFields_shown s).unlisted hn h
  · exact (messageFields_shown s).unlisted hn h
  · exact (windowFields_shown s).unlisted hn h
  · exact (portFields_shown s).unlisted hn h
  · exact (contextFields_shown s c).unlisted hn h
  · exact (timerFields_shown s i).unlisted hn h
  · exact csrValue_gap s hn

/-- Settles O8: the fields of R44 group by group, each CSR being the image of its fields. -/
theorem csrFieldsRead : Obligations.CsrFieldsRead := by
  unfold Obligations.CsrFieldsRead
  refine fun s => ⟨fun r hr => ?_, fun n k hk => ?_⟩
  · simp only [csrFields, List.mem_append, List.mem_flatMap, List.mem_finRange, true_and] at hr
    rcases hr with (((((h | h) | h) | h) | h) | ⟨c, h⟩) | ⟨i, h⟩
    · exact (systemFields_shown s).field h
    · exact (operandFields_shown s).field h
    · exact (messageFields_shown s).field h
    · exact (windowFields_shown s).field h
    · exact (portFields_shown s).field h
    · exact (contextFields_shown s c).field h
    · exact (timerFields_shown s i).field h
  · simp only [csrFields, List.forall_mem_append, List.mem_flatMap, List.mem_finRange, true_and, forall_exists_index] at hk
    obtain ⟨⟨⟨⟨⟨⟨hsystem, hoperand⟩, hmessage⟩, hwindow⟩, hport⟩, hcontext⟩, htimer⟩ := hk
    rcases csr_group n.toNat with hn | hn | hn | hn | hn | ⟨c, hn⟩ | ⟨i, hn⟩ | hn
    · exact (systemFields_shown s).outside hn hsystem
    · exact (operandFields_shown s).outside hn hoperand
    · exact (messageFields_shown s).outside hn hmessage
    · exact (windowFields_shown s).outside hn hwindow
    · exact (portFields_shown s).outside hn hport
    · exact (contextFields_shown s c).outside hn fun r hr => hcontext r c hr
    · exact (timerFields_shown s i).outside hn fun r hr => htimer r i hr
    · rw [csrValue_gap s hn]
      simp

end Sys2Proof.Machine
end

section
/-! SUPPORT. What a command's pseudocode leaves alone, whichever way it ends: a small logic for what holds of every value a result
answers, and with it the commands that touch neither `CMDCNT` nor `STATUS` nor the output registers. -/

namespace Sys2Proof.Machine

/-- If the result answers a value, `P` holds of it. -/
def Post {α : Type} (x : Result α) (P : α → Prop) : Prop := ∀ a, x = .ok a → P a

theorem post_ok {α : Type} {a : α} {P : α → Prop} (h : P a) : Post (.ok a) P := fun _ e => Except.ok.inj e ▸ h

theorem post_pure {α : Type} {a : α} {P : α → Prop} (h : P a) : Post (pure a : Result α) P := post_ok h

theorem post_trivial {α : Type} (x : Result α) : Post x fun _ => True := fun _ _ => trivial

theorem post_mono {α : Type} {x : Result α} {P Q : α → Prop} (h : Post x P) (hpq : ∀ a, P a → Q a) : Post x Q :=
  fun a ha => hpq a (h a ha)

/-- After a first part that answers values with `Q`. -/
theorem post_bind {α β : Type} {x : Result α} {f : α → Result β} {Q : α → Prop} {P : β → Prop} (hx : Post x Q)
    (hf : ∀ a, Q a → Post (f a) P) : Post (x >>= f) P := fun b hb => by
  obtain ⟨a, ha, hb⟩ := (bind_ok x f b).mp hb
  exact hf a (hx a ha) b hb

/-- After a first part whose value does not matter, such as a check. -/
theorem post_check {α β : Type} {x : Result α} {f : α → Result β} {P : β → Prop} (hf : ∀ a, Post (f a) P) : Post (x >>= f) P :=
  post_bind (post_trivial x) fun a _ => hf a

theorem post_ite {α : Type} {c : Prop} [Decidable c] {x y : Result α} {P : α → Prop} (hx : Post x P) (hy : Post y P) :
    Post (if c then x else y) P := by split <;> assumption

/-- The counter, the status and the output registers are those of `s`. -/
structure KeepsOutputs (s u : State) : Prop where
  cmdCnt : u.cmdCnt = s.cmdCnt
  status : u.status = s.status
  dout0 : u.dout0 = s.dout0
  dout1 : u.dout1 = s.dout1

theorem KeepsOutputs.refl (s : State) : KeepsOutputs s s := ⟨rfl, rfl, rfl, rfl⟩

theorem KeepsOutputs.trans {s u w : State} (h : KeepsOutputs s u) (k : KeepsOutputs u w) : KeepsOutputs s w :=
  ⟨k.cmdCnt.trans h.cmdCnt, k.status.trans h.status, k.dout0.trans h.dout0, k.dout1.trans h.dout1⟩

theorem emit_keeps (c : Call) (s : State) : KeepsOutputs s (emit c s) := ⟨rfl, rfl, rfl, rfl⟩

theorem event_keeps (b : BitVec 12) (s : State) : KeepsOutputs s (event b s) := ⟨rfl, rfl, rfl, rfl⟩

theorem setSt_keeps (c : CtxId) (st : ServoState) (s : State) : KeepsOutputs s (setSt c st s) := ⟨rfl, rfl, rfl, rfl⟩

theorem resetFilters_keeps (c : CtxId) (s : State) : KeepsOutputs s (resetFilters c s) := ⟨rfl, rfl, rfl, rfl⟩

theorem disarm_keeps (i : TmrId) (s : State) : KeepsOutputs s (disarm i s) := ⟨rfl, rfl, rfl, rfl⟩

theorem mirror_keeps (c : CtxId) (s : State) : KeepsOutputs s (mirror c s) := ⟨rfl, rfl, rfl, rfl⟩

theorem eventIf_keeps (c : Bool) (b : BitVec 12) (s : State) : KeepsOutputs s (eventIf c b s) := by
  cases c <;> exact ⟨rfl, rfl, rfl, rfl⟩

theorem KeepsOutputs.thenEventIf {s u : State} (h : KeepsOutputs s u) (c : Bool) (b : BitVec 12) : KeepsOutputs s (eventIf c b u) :=
  h.trans (eventIf_keeps c b u)

theorem emitAll_keeps (cs : List Call) (s : State) : KeepsOutputs s (emitAll cs s) := by
  induction cs generalizing s with
  | nil => exact .refl s
  | cons c cs ih => exact (emit_keeps c s).trans (ih (emit c s))

theorem fire_keeps (i : TmrId) (s : State) : KeepsOutputs s (fire i s) := by
  rw [fire_frame]
  exact ⟨rfl, rfl, rfl, rfl⟩

theorem arm_keeps (i : TmrId) (ticks : Nat) (rep : Bool) (s : State) : Post (arm i ticks rep s) (KeepsOutputs s) := fun u hu => by
  obtain ⟨-, rfl⟩ := (arm_ok i ticks rep s u).mp hu
  exact ⟨rfl, rfl, rfl, rfl⟩

theorem doStep_keeps (c : CtxId) (raw : Int) (t1 : Timestamp) (corr : Int) (s : State) :
    Post (doStep c raw t1 corr s) (KeepsOutputs s) := fun u hu => by
  obtain ⟨call, a, -, ha, rfl⟩ := doStep_ok c raw t1 corr s u hu
  exact (emit_keeps call s).trans (setSt_keeps c _ _) |>.trans (resetFilters_keeps c _) |>.trans (arm_keeps _ _ _ _ a ha)
    |>.trans (event_keeps _ a) |>.trans (mirror_keeps c _)

theorem servoEval_keeps (c : CtxId) (off : TimeInterval) (now : Timestamp) (s : State) :
    Post (servoEval c off now s) (KeepsOutputs s) := fun u hu => by
  obtain ⟨dt, p, ratio, -, -, -, st, -, rfl⟩ := servoEval_ok c off now s u hu
  exact (emitAll_keeps _ s).trans (setSt_keeps c st _) |>.trans (eventIf_keeps _ _ _) |>.trans (eventIf_keeps _ _ _)
    |>.trans (mirror_keeps c _)

theorem applyHoldover_keeps (c : CtxId) (s : State) : Post (applyHoldover c s) (KeepsOutputs s) := fun u hu => by
  rcases applyHoldover_ok c s u hu with ⟨-, rfl⟩ | ⟨-, r, -, rfl⟩
  · exact .refl u
  · exact ⟨rfl, rfl, rfl, rfl⟩

theorem tickOne_keeps (now : Nat) (acc : State × Bool) (i : TmrId) :
    Post (tickOne now acc i) (fun p => KeepsOutputs acc.1 p.1) := by
  obtain ⟨s, fired⟩ := acc
  rintro ⟨u, g⟩ hu
  rcases tickOne_ok now s u fired g i hu with ⟨-, -, rfl, -⟩ | ⟨-, -, -, -, t, -, rfl⟩ | ⟨-, rfl, -⟩
  · exact ⟨rfl, rfl, rfl, rfl⟩
  · exact .trans (u := setTimer i t s) ⟨rfl, rfl, rfl, rfl⟩ (fire_keeps i _)
  · exact .refl u

theorem foldTicks_keeps (now : Nat) (is : List TmrId) (acc : State × Bool) :
    Post (is.foldlM (tickOne now) acc) (fun p => KeepsOutputs acc.1 p.1) := by
  induction is generalizing acc with
  | nil => exact post_pure (.refl _)
  | cons i is ih =>
    rw [List.foldlM_cons]
    exact post_bind (tickOne_keeps now acc i) fun a ha => post_mono (ih a) fun _ hp => ha.trans hp

/-- A pseudocode that leaves `VALID` 0 and the counter, the status and the output registers alone. -/
def Quiet (body : Body) : Prop := ∀ s, Post (body s) fun p => KeepsOutputs s p.1 ∧ p.2 = false

theorem quiet_toTi (d : TiReg) (f : State → Result TimeInterval) : Quiet (toTi d f) := fun _ =>
  post_check fun _ => post_pure ⟨⟨rfl, rfl, rfl, rfl⟩, rfl⟩

/-- The commands that set `VALID`. -/
def SetsValid (i : Instr) : Prop :=
  (∃ x y a d, i = .fltStep x y a d) ∨ (∃ x a b c, i = .svDelay x a b c) ∨ (∃ x a b c, i = .svOffset x a b c)
    ∨ (∃ x o n, i = .svPid x o n) ∨ ∃ n, i = .tmTick n

/-- What the pseudocode of the command `i` may make of the counter, the status, the output registers and `VALID`. -/
structure Permitted (i : Instr) (s u : State) (valid : Bool) : Prop where
  cmdCnt : i ≠ .sysReset → u.cmdCnt = s.cmdCnt
  valid : valid = true → SetsValid i
  flags : i ≠ .sysReset → (∀ a b, i ≠ .tiCmp a b) → u.status.lt = s.status.lt ∧ u.status.eq = s.status.eq
  dout : i ≠ .sysReset → (∀ c, i ≠ .svStat c) → (∀ n, i ≠ .tmTick n) → (∀ d m, i ≠ .ccGetTime d m) →
    u.dout0 = s.dout0 ∧ u.dout1 = s.dout1

theorem KeepsOutputs.permitted {i : Instr} {s u : State} {v : Bool} (h : KeepsOutputs s u) (hv : v = true → SetsValid i) :
    Permitted i s u v :=
  ⟨fun _ => h.cmdCnt, hv, fun _ _ => by rw [h.status]; exact ⟨rfl, rfl⟩, fun _ _ _ _ => ⟨h.dout0, h.dout1⟩⟩

/-- The pseudocode of the command is in its permission. -/
def Obeys (i : Instr) : Prop := ∃ body : Body, (∀ s, exec i s = command body s) ∧ ∀ s, Post (body s) fun p => Permitted i s p.1 p.2

theorem Quiet.obeys {i : Instr} {body : Body} (h : Quiet body) (hi : ∀ s, exec i s = command body s) : Obeys i :=
  ⟨body, hi, fun s => post_mono (h s) fun p hp => hp.1.permitted fun hv => by rw [hp.2] at hv; cases hv⟩

theorem obeys_plain {i : Instr} {f : State → State} (hi : ∀ s, exec i s = command (plain f) s)
    (h : ∀ s, Permitted i s (f s) false) : Obeys i :=
  ⟨_, hi, fun s => post_ok (h s)⟩

theorem obeys_of_keeps {i : Instr} {f : State → State} (hi : ∀ s, exec i s = command (plain f) s) (h : ∀ s, KeepsOutputs s (f s)) :
    Obeys i :=
  obeys_plain hi fun s => (h s).permitted fun hv => absurd hv Bool.false_ne_true

/-- A command that may set `VALID` needs only to leave the counter, the status and the output registers alone. -/
theorem obeys_of_setsValid {i : Instr} {body : Body} (hv : SetsValid i) (h : ∀ s, Post (body s) fun p => KeepsOutputs s p.1)
    (hi : ∀ s, exec i s = command body s) : Obeys i :=
  ⟨body, hi, fun s => post_mono (h s) fun _ hp => hp.permitted fun _ => hv⟩

theorem post_quiet {s u : State} (h : KeepsOutputs s u) :
    Post (pure (u, false) : Result (State × Bool)) fun p => KeepsOutputs s p.1 ∧ p.2 = false := post_pure ⟨h, rfl⟩

/-! Filter and servo commands (R196, R264 to R292). -/

theorem fltStep_obeys (x : CtxId) (y : FltId) (a d : TiReg) : Obeys (.fltStep x y a d) := by
  refine obeys_of_setsValid (.inl ⟨x, y, a, d, rfl⟩) (fun s => ?_) fun _ => rfl
  refine post_check fun p => ?_
  obtain ⟨F, _ | v⟩ := p
  · exact post_pure ⟨rfl, rfl, rfl, rfl⟩
  · exact post_pure ⟨rfl, rfl, rfl, rfl⟩

theorem svReset_obeys (c : CtxId) : Obeys (.svReset c) := by
  refine obeys_of_keeps (fun _ => rfl) fun s => ?_
  have hkeeps := (setSt_keeps c ServoState.zero s).trans (resetFilters_keeps c _) |>.trans (disarm_keeps (settleTimer c) _)
    |>.trans (eventIf_keeps (s.sv[c].st.clockState != 0) evStateChg _)
  exact iteInduction (fun _ => hkeeps.trans (mirror_keeps c _)) (fun _ => hkeeps)

theorem svDelay_obeys (c : CtxId) (a b : TsReg) (i : TiReg) : Obeys (.svDelay c a b i) := by
  refine obeys_of_setsValid (.inr (.inl ⟨c, a, b, i, rfl⟩)) (fun s => ?_) fun _ => rfl
  refine post_check fun _ => post_check fun _ => post_check fun _ => post_check fun _ => post_check fun _ => post_check fun _ => ?_
  refine post_ite (post_pure ⟨rfl, rfl, rfl, rfl⟩) (post_check fun p => ?_)
  obtain ⟨F, _ | v⟩ := p
  · exact post_pure ⟨rfl, rfl, rfl, rfl⟩
  · exact post_pure ⟨rfl, rfl, rfl, rfl⟩

theorem svOffset_obeys (c : CtxId) (a b : TsReg) (i : TiReg) : Obeys (.svOffset c a b i) := by
  refine obeys_of_setsValid (.inr (.inr (.inl ⟨c, a, b, i, rfl⟩))) (fun s => ?_) fun _ => rfl
  refine post_check fun _ => post_check fun _ => post_check fun _ => post_check fun _ => post_check fun _ => post_check fun _ => ?_
  refine post_ite (post_check fun _ => post_pure ⟨rfl, rfl, rfl, rfl⟩) (post_ite ?_ (post_check fun p => ?_))
  · exact post_bind (doStep_keeps _ _ _ _ s) fun _ hu => post_pure hu
  · obtain ⟨F, _ | v⟩ := p
    · exact post_pure ⟨rfl, rfl, rfl, rfl⟩
    · exact post_bind (servoEval_keeps _ _ _ _) fun _ hu => post_pure ⟨hu.cmdCnt, hu.status, hu.dout0, hu.dout1⟩

theorem svPid_obeys (c : CtxId) (o : TiReg) (n : TsReg) : Obeys (.svPid c o n) := by
  refine obeys_of_setsValid (.inr (.inr (.inr (.inl ⟨c, o, n, rfl⟩)))) (fun s => ?_) fun _ => rfl
  refine post_check fun _ => post_check fun _ => post_check fun _ => ?_
  refine post_ite (post_pure (.refl s)) ?_
  exact post_bind (servoEval_keeps _ _ _ _) fun _ hu => post_pure ⟨hu.cmdCnt, hu.status, hu.dout0, hu.dout1⟩

theorem svSwitch_obeys : Obeys .svSwitch := by
  refine Quiet.obeys (fun s => ?_) fun _ => rfl
  have hdisarmed := (setSt_keeps (otherCtx s.svActive) (switchedState s.sv[s.svActive].st s.sv[otherCtx s.svActive].st) s).trans
    (resetFilters_keeps (otherCtx s.svActive) _) |>.trans (disarm_keeps (settleTimer s.svActive) _)
  refine post_check fun _ => post_ite (post_bind (arm_keeps _ _ _ _) fun u hu => ?_) (post_bind (post_ok hdisarmed) fun u hu => ?_)
  · have hkeeps := hdisarmed.trans hu
    refine post_quiet (.thenEventIf ?_ _ _)
    exact ⟨hkeeps.cmdCnt, hkeeps.status, hkeeps.dout0, hkeeps.dout1⟩
  · refine post_quiet (.thenEventIf ?_ _ _)
    exact ⟨hu.cmdCnt, hu.status, hu.dout0, hu.dout1⟩

theorem svLost_obeys (c : CtxId) : Obeys (.svLost c) := by
  refine Quiet.obeys (fun s => ?_) fun _ => rfl
  refine post_check fun _ => post_check fun _ => post_bind (applyHoldover_keeps c s) fun u hu => post_quiet ?_
  exact hu.trans (setSt_keeps c _ u) |>.trans (resetFilters_keeps c _) |>.trans (disarm_keeps (settleTimer c) _)
    |>.trans (eventIf_keeps _ _ _) |>.trans (mirror_keeps c _)

/-! The commands that write an output register or the flags (R139, R178, R294, R326, R341). -/

theorem tiCmp_obeys (a b : TiReg) : Obeys (.tiCmp a b) :=
  obeys_plain (fun _ => rfl) fun _ =>
    ⟨fun _ => rfl, fun h => absurd h Bool.false_ne_true, fun _ h => absurd rfl (h a b), fun _ _ _ _ => ⟨rfl, rfl⟩⟩

theorem svStat_obeys (c : CtxId) : Obeys (.svStat c) :=
  obeys_plain (fun _ => rfl) fun _ =>
    ⟨fun _ => rfl, fun h => absurd h Bool.false_ne_true, fun _ _ => ⟨rfl, rfl⟩, fun _ h => absurd rfl (h c)⟩

theorem ccGetTime_obeys (d : TsReg) (m : Domain) : Obeys (.ccGetTime d m) :=
  obeys_plain (fun _ => rfl) fun _ =>
    ⟨fun _ => rfl, fun h => absurd h Bool.false_ne_true, fun _ _ => ⟨rfl, rfl⟩, fun _ _ _ h => absurd rfl (h d m)⟩

theorem sysReset_obeys : Obeys .sysReset :=
  obeys_plain (fun _ => rfl) fun _ =>
    ⟨fun h => absurd rfl h, fun h => absurd h Bool.false_ne_true, fun h => absurd rfl h, fun h => absurd rfl h⟩

theorem tmTick_obeys (a : TiReg) : Obeys (.tmTick a) := by
  refine ⟨_, fun _ => rfl, fun s => ?_⟩
  refine post_check fun _ => post_bind (foldTicks_keeps _ allTimers _) fun p hp => post_pure ?_
  exact ⟨fun _ => hp.cmdCnt, fun _ => .inr (.inr (.inr (.inr ⟨a, rfl⟩))), fun _ _ => by rw [hp.status]; exact ⟨rfl, rfl⟩,
    fun _ _ h => absurd rfl (h a)⟩

theorem exec_obeys (i : Instr) : Obeys i := by
  cases i with
  | tiCmp a b => exact tiCmp_obeys a b
  | fltStep x y a d => exact fltStep_obeys x y a d
  | svReset c => exact svReset_obeys c
  | svDelay c a b i => exact svDelay_obeys c a b i
  | svOffset c a b i => exact svOffset_obeys c a b i
  | svPid c o n => exact svPid_obeys c o n
  | svSwitch => exact svSwitch_obeys
  | svLost c => exact svLost_obeys c
  | svStat c => exact svStat_obeys c
  | ccGetTime d m => exact ccGetTime_obeys d m
  | tmTick a => exact tmTick_obeys a
  | sysReset => exact sysReset_obeys
  | nop | tiMov _ _ | tiHalf _ _ | tiToNs _ _ | tsMov _ _ | fltReset _ _ | ccFreq _ _ | ccDelta _ _ | ccPhase _ _ =>
    exact obeys_of_keeps (fun _ => rfl) fun _ => ⟨rfl, rfl, rfl, rfl⟩
  | tiAdd _ _ _ | tiSub _ _ _ | tiNeg _ _ | tiAbs _ _ | tiFromNs _ _ | tiMulI _ _ _ | tiDivI _ _ _ | tsSub _ _ _ | tsDiffC _ _ _ _ =>
    exact (quiet_toTi _ _).obeys fun _ => rfl
  | pkHdr | upHdr | upTs _ | upPd _ _ | upAnn _ | upSig _ | ccSetTime _ _ =>
    refine Quiet.obeys (fun s => ?_) fun _ => rfl
    exact post_check fun _ => post_quiet ⟨rfl, rfl, rfl, rfl⟩
  | tsAddI _ _ _ | pkSig _ | pkTlv | tmInit _ _ =>
    refine Quiet.obeys (fun s => ?_) fun _ => rfl
    exact post_check fun _ => post_check fun _ => post_quiet ⟨rfl, rfl, rfl, rfl⟩
  | pkTs _ | pkPd _ _ | upTlv =>
    refine Quiet.obeys (fun s => ?_) fun _ => rfl
    exact post_check fun _ => post_check fun _ => post_check fun _ => post_quiet ⟨rfl, rfl, rfl, rfl⟩
  | pkAnn _ =>
    refine Quiet.obeys (fun s => ?_) fun _ => rfl
    refine post_check fun _ => post_check fun _ => post_ite (post_check fun _ => ?_) ?_ <;>
      exact post_quiet ⟨rfl, rfl, rfl, rfl⟩
  | tmStart _ _ _ =>
    refine Quiet.obeys (fun s => ?_) fun _ => rfl
    refine post_check fun _ => post_check fun _ => post_check fun _ => post_check fun _ => ?_
    exact post_bind (arm_keeps _ _ _ s) fun _ hu => post_quiet hu
  | tmStop _ =>
    refine Quiet.obeys (fun s => ?_) fun _ => rfl
    exact post_check fun _ => post_ite (post_quiet ⟨rfl, rfl, rfl, rfl⟩) (post_quiet (.refl s))

theorem errCode_ne_zero (e : Err) : errCode e ≠ 0 := by
  cases e <;> decide

/-- Settles O15: every command's pseudocode is in its permission, and the frame of R130 adds the rest. -/
theorem statusAndCounters : Obligations.StatusAndCounters := by
  unfold Obligations.StatusAndCounters
  intro i s t ht
  obtain ⟨body, hi, hbody⟩ := exec_obeys i
  rw [Answers, hi, command_next] at ht
  rcases ht with ⟨u, v, hok, rfl⟩ | ⟨e, -, rfl⟩
  · obtain ⟨hcnt, hvalid, hflags, hdout⟩ := hbody s _ hok
    exact ⟨fun h => congrArg (· + 1) (hcnt h), ⟨fun _ => rfl, fun _ => rfl⟩, fun h => ⟨rfl, hvalid h⟩, hflags, hdout⟩
  · exact ⟨fun _ => rfl, ⟨fun h => absurd h (errCode_ne_zero e), fun h => absurd h Bool.false_ne_true⟩,
      fun h => absurd h Bool.false_ne_true, fun _ _ => ⟨rfl, rfl⟩, fun _ _ _ _ => ⟨rfl, rfl⟩⟩

end Sys2Proof.Machine
end

section
/-! SUPPORT. Reading a CSR back after a write of it: a field taken out of a written value and put in its place again is the value under the
field's mask. -/

namespace Sys2Proof.Machine

theorem fieldAt_slice (v : Reg) (n w : Nat) : fieldAt n (slice v n w) = v &&& fieldAt n (BitVec.allOnes w) := by
  apply BitVec.eq_of_getLsbD_eq
  intro k hk
  simp only [BitVec.getLsbD_and, getLsbD_fieldAt, slice, BitVec.getLsbD_extractLsb', BitVec.getLsbD_allOnes]
  by_cases h : n ≤ k
  · simp [h, hk, Bool.and_comm]
  · simp [h]

theorem low_slice (v : Reg) (w : Nat) : low (slice v 0 w) = v &&& low (BitVec.allOnes w) := by
  simpa only [low_eq_fieldAt] using fieldAt_slice v 0 w

theorem bitAt_flagBit (v : Reg) (n : Nat) : bitAt n (flagBit v n) = v &&& bitAt n true := by
  apply BitVec.eq_of_getLsbD_eq
  intro k hk
  simp only [BitVec.getLsbD_and, getLsbD_bitAt, flagBit]
  by_cases h : k = n
  · simp [h, Bool.and_comm]
  · simp [h]

theorem tsLo_writeTsLo (t : Timestamp) (v : Reg) : tsLo (writeTsLo t v) = v &&& 0xFFFFFFFF0000FFFF := by
  simp only [tsLo, writeTsLo, fieldAt_slice, ← BitVec.and_or_distrib_left]
  rfl

theorem tsHi_writeTsHi (t : Timestamp) (v : Reg) : tsHi (writeTsHi t v) = v &&& 0x0000FFFFFFFFFFFF := by
  simp only [tsHi, writeTsHi, fieldAt_slice, ← BitVec.and_or_distrib_left]
  rfl

/-- The listed numbers of R44. -/
theorem csrListed_iff (a : Nat) :
    csrListed a = true ↔
      a ≤ 0x005 ∨ (0x008 ≤ a ∧ a ≤ 0x009) ∨ (0x010 ≤ a ∧ a ≤ 0x017) ∨ (0x020 ≤ a ∧ a ≤ 0x027) ∨ (0x030 ≤ a ∧ a ≤ 0x033)
        ∨ (0x040 ≤ a ∧ a ≤ 0x049) ∨ (0x050 ≤ a ∧ a ≤ 0x056) ∨ (0x058 ≤ a ∧ a ≤ 0x05B) ∨ (0x060 ≤ a ∧ a ≤ 0x062)
        ∨ (0x068 ≤ a ∧ a ≤ 0x06D) ∨ (0x0E0 ≤ a ∧ a ≤ 0x0E4) ∨ a = 0x0F0
        ∨ (0x100 ≤ a ∧ a ≤ 0x17F ∧ (a % 0x40 ≤ 0x13 ∨ (0x18 ≤ a % 0x40 ∧ a % 0x40 ≤ 0x2D) ∨ 0x30 ≤ a % 0x40))
        ∨ a = 0x1F0 ∨ a = 0x1F1 ∨ (0x200 ≤ a ∧ a ≤ 0x23F ∧ a % 8 ≤ 5) := by
  simp only [csrListed, Bool.or_eq_true, Bool.and_eq_true, decide_eq_true_eq, beq_iff_eq, or_assoc, and_assoc]

/-- The read-only numbers of R44. -/
theorem csrReadOnly_iff (a : Nat) :
    csrReadOnly a = true ↔
      a = 0x001 ∨ a = 0x004 ∨ a = 0x005 ∨ a = 0x008 ∨ a = 0x009 ∨ a = 0x06B ∨ (0x0E0 ≤ a ∧ a ≤ 0x0E4) ∨ a = 0x1F1 := by
  simp only [csrReadOnly, Bool.or_eq_true, Bool.and_eq_true, decide_eq_true_eq, beq_iff_eq, or_assoc]

theorem csrPlain_iff (a : Nat) :
    csrPlain a = true ↔ csrListed a = true ∧ ¬ csrReadOnly a = true ∧ a ≠ 0x000 ∧ a ≠ 0x002 ∧ a ≠ 0x06D := by
  simp only [csrPlain, Bool.and_eq_true, Bool.not_eq_true', Bool.not_eq_true, bne_iff_ne, and_assoc]

theorem readHeader_writeHeader (v : Reg) (h : Header) {a : Nat} (hl : csrListed a = true) (h1 : 0x040 ≤ a) (h2 : a < 0x050) :
    readHeader (writeHeader v h a) a = v &&& csrMask a := by
  unfold readHeader
  split
  case h_11 =>
    rw [csrListed_iff] at hl
    simp_all
    omega
  all_goals simp only [writeHeader, low_slice, fieldAt_slice, ← BitVec.and_or_distrib_left]
  all_goals first | rfl | exact BitVec.and_allOnes.symm

theorem readAnnounce_writeAnnounce (v : Reg) (x : Announce) {a : Nat} (hl : csrListed a = true) (h1 : 0x050 ≤ a) (h2 : a < 0x058) :
    readAnnounce (writeAnnounce v x a) a = v &&& csrMask a := by
  unfold readAnnounce
  split
  case h_8 =>
    rw [csrListed_iff] at hl
    simp_all
    omega
  all_goals simp only [writeAnnounce, low_slice, fieldAt_slice, ← BitVec.and_or_distrib_left]
  all_goals first | rfl | exact BitVec.and_allOnes.symm

theorem readLeapTlv_writeLeapTlv (v : Reg) (s : State) {a : Nat} (hl : csrListed a = true) (h1 : 0x058 ≤ a) (h2 : a < 0x068) :
    readLeapTlv (writeLeapTlv v s a) a = v &&& csrMask a := by
  unfold readLeapTlv
  split
  case h_8 =>
    rw [csrListed_iff] at hl
    simp_all
    omega
  all_goals simp only [writeLeapTlv, low_slice, fieldAt_slice, bitAt_flagBit, ← BitVec.and_or_distrib_left]
  all_goals first | rfl | exact BitVec.and_allOnes.symm

theorem readWindow_writeWindow (v : Reg) (s : State) {a : Nat} (hl : csrListed a = true) (h1 : 0x068 ≤ a) (h2 : a < 0x070)
    (hstat : a ≠ 0x06B) (hdata : a ≠ 0x06D) : readWindow (writeWindow v s a) a = v &&& csrMask a := by
  unfold readWindow
  split
  case h_4 => exact absurd rfl hstat
  case h_6 => exact absurd rfl hdata
  case h_7 =>
    rw [csrListed_iff] at hl
    simp_all
    omega
  all_goals simp only [writeWindow, low_slice]
  all_goals rfl

theorem svActive_written (b : Bool) : ((if b then (1 : CtxId) else 0) == 1) = b := by
  cases b <;> rfl

theorem readPort_writePort (v : Reg) (s : State) : readPort (writePort v s 0x0F0) 0x0F0 = v &&& csrMask 0x0F0 := by
  simp only [readPort, writePort, svActive_written, bitAt_flagBit]
  rfl

theorem readSystem_writeMask (v : Reg) (s : State) : readSystem (writeSystem v s 0x003) 0x003 = v &&& csrMask 0x003 := by
  simp only [readSystem, writeSystem, low_slice]
  rfl

theorem readServoConfig_writeServoConfig (v : Reg) (g : ServoConfig) {k : Nat} (h : k ≤ 0x13) :
    readServoConfig (writeServoConfig v g k) k = v &&& contextMask k := by
  unfold readServoConfig
  split
  case h_21 => simp_all; omega
  all_goals simp only [writeServoConfig, low_slice, fieldAt_slice, bitAt_flagBit, ← BitVec.and_or_distrib_left]
  all_goals first | rfl | exact BitVec.and_allOnes.symm

theorem readServoState_writeServoState (v : Reg) (x : ServoState) {k : Nat} (h1 : 0x18 ≤ k) (h2 : k ≤ 0x2D) :
    readServoState (writeServoState v x k) k = v &&& contextMask k := by
  unfold readServoState
  split
  case h_23 => simp_all; omega
  all_goals simp only [writeServoState, servoStateImage, low_slice, fieldAt_slice, bitAt_flagBit, tsLo_writeTsLo, tsHi_writeTsHi,
    ← BitVec.and_or_distrib_left]
  all_goals first | rfl | exact BitVec.and_allOnes.symm

theorem readFilter_writeFilter (v : Reg) (x : Filter) {j : Nat} (h : j < 8) :
    readFilter (writeFilter v x j) j = v &&& contextMask (0x30 + j) := by
  unfold readFilter
  split
  case h_9 => simp_all; omega
  all_goals simp only [writeFilter, low_slice, bitAt_flagBit]
  all_goals first | rfl | exact BitVec.and_allOnes.symm

theorem readTimer_writeTimer (v : Reg) (t : Timer) {j : Nat} (h : j ≤ 5) :
    readTimer (writeTimer v t j) j
      = v &&& if j = 0 then 0xFF0F else if j = 1 ∨ j = 4 ∨ j = 5 then 0xFFFFFFFF else 0xFFFFFFFFFFFFFFFF := by
  unfold readTimer
  split
  case h_7 => simp_all; omega
  all_goals simp only [writeTimer, timerCtrlImage, low_slice, fieldAt_slice, bitAt_flagBit, ← BitVec.and_or_distrib_left]
  all_goals first | rfl | exact BitVec.and_allOnes.symm

theorem contextMask_filter {k : Nat} (h1 : 0x30 ≤ k) (h2 : k < 0x40) : contextMask (0x30 + k % 8) = contextMask k := by
  interval_cases k <;> rfl

theorem readContext_writeContext (v : Reg) (x : Context) {k : Nat} (hk : k < 0x40)
    (hl : k ≤ 0x13 ∨ (0x18 ≤ k ∧ k ≤ 0x2D) ∨ 0x30 ≤ k) : readContext (writeContext v x k) k = v &&& contextMask k := by
  unfold readContext writeContext
  by_cases h1 : k < 0x18
  · simp only [if_pos h1]
    exact readServoConfig_writeServoConfig v x.cfg (by omega)
  · by_cases h2 : k < 0x30
    · simp only [if_neg h1, if_pos h2]
      exact readServoState_writeServoState v x.st (by omega) (by omega)
    · simp only [if_neg h1, if_neg h2, get_set_same]
      rw [readFilter_writeFilter v _ (Nat.mod_lt k (by decide)), contextMask_filter (by omega) hk]

theorem csrMask_context {a : Nat} (h1 : 0x100 ≤ a) (h2 : a < 0x180) : csrMask a = contextMask (a % 0x40) := by
  unfold csrMask
  iterate 13 rw [if_neg (by omega)]
  rw [if_pos (by omega)]

theorem csrMask_timer {a : Nat} (h1 : 0x200 ≤ a) :
    csrMask a = if a % 8 = 0 then 0xFF0F else if a % 8 = 1 ∨ a % 8 = 4 ∨ a % 8 = 5 then 0xFFFFFFFF else 0xFFFFFFFFFFFFFFFF := by
  unfold csrMask
  iterate 14 rw [if_neg (by omega)]
  simp only [h1, true_and]

theorem csrMask_ti {a : Nat} (h1 : 0x010 ≤ a) (h2 : a < 0x018) : csrMask a = BitVec.allOnes 64 := by
  interval_cases a <;> rfl

theorem csrMask_ts {a : Nat} (h1 : 0x020 ≤ a) (h2 : a < 0x028) :
    csrMask a = if a % 2 = 0 then 0xFFFFFFFF0000FFFF else 0x0000FFFFFFFFFFFF := by
  unfold csrMask
  rw [if_neg (by omega), if_pos (by omega)]

theorem csrMask_pid {a : Nat} (h1 : 0x030 ≤ a) (h2 : a < 0x034) :
    csrMask a = if a % 2 = 0 then BitVec.allOnes 64 else 0xFFFF := by
  interval_cases a <;> rfl

theorem readOperand_writeOperand (v : Reg) (s : State) {a : Nat} (hl : csrListed a = true) (h1 : 0x010 ≤ a) (h2 : a < 0x034) :
    readOperand (writeOperand v s a) a = v &&& csrMask a := by
  rw [csrListed_iff] at hl
  unfold readOperand writeOperand
  by_cases hti : a < 0x018
  · simp only [if_pos hti, setTi_ti, get_set_same, csrMask_ti h1 hti, BitVec.and_allOnes]
  · by_cases hts : a < 0x028
    · simp only [if_neg hti, if_neg (show ¬ a < 0x020 by omega), if_pos hts, setTs_ts, get_set_same,
        csrMask_ts (show 0x020 ≤ a by omega) hts]
      split
      · exact tsLo_writeTsLo _ v
      · exact tsHi_writeTsHi _ v
    · simp only [if_neg hti, if_neg (show ¬ a < 0x020 by omega), if_neg hts, if_neg (show ¬ a < 0x030 by omega), setPid_pid,
        get_set_same, csrMask_pid (show 0x030 ≤ a by omega) h2]
      split
      · exact BitVec.and_allOnes.symm
      · exact low_slice v 16

/-- A plain read-write CSR reads back the defined bits of what was written (R29, R44). -/
theorem csrValue_csrWrite {n : CsrNumber} (v : Reg) (s : State) (hp : csrPlain n.toNat = true) :
    csrValue (csrWrite n v s) n = v &&& csrMask n.toNat := by
  obtain ⟨hl, hro, hcmd, hevt, hdata⟩ := (csrPlain_iff _).mp hp
  rw [csrReadOnly_iff] at hro
  have hl' := (csrListed_iff _).mp hl
  refine csrWrite_cases (P := fun t => csrValue t n = v &&& csrMask n.toNat) n v s
    (fun h => ?system) (fun h1 h2 => ?operand) (fun h1 h2 => ?header) (fun h1 h2 => ?announce) (fun h1 h2 => ?leapTlv)
    (fun h1 h2 => ?window) (fun h1 h2 => ?port) (fun h1 h2 c hc => ?context) (fun h => ?now) (fun h1 h2 i hi => ?timer)
    (fun h => ?ignored)
  case system =>
    have hn : n.toNat = 0x003 := by omega
    rw [csrValue_system h, hn, readSystem_writeMask]
  case operand => rw [csrValue_operand h1 h2, readOperand_writeOperand v s hl h1 h2]
  case header => rw [csrValue_header h1 h2, readHeader_writeHeader v s.hdr hl h1 h2]
  case announce => rw [csrValue_announce h1 h2, readAnnounce_writeAnnounce v s.ann hl h1 h2]
  case leapTlv => rw [csrValue_leapTlv h1 h2, readLeapTlv_writeLeapTlv v s hl h1 h2]
  case window => rw [csrValue_window h1 h2, readWindow_writeWindow v s hl h1 h2 (by omega) hdata]
  case port =>
    have hn : n.toNat = 0x0F0 := by omega
    rw [csrValue_port h1 h2, hn, readPort_writePort]
  case context =>
    have hval : c.val = (n.toNat - 0x100) / 0x40 := by rw [hc]; simp only [Fin.ofNat]; omega
    rw [csrValue_context c (by omega) (by omega), show n.toNat - (0x100 + 0x40 * c.val) = n.toNat % 0x40 by omega]
    simp only [get_set_same]
    rw [readContext_writeContext v _ (Nat.mod_lt _ (by decide)) (by omega), csrMask_context h1 h2]
  case now =>
    rw [csrValue_now h, h]
    exact BitVec.and_allOnes.symm
  case timer =>
    have hval : i.val = (n.toNat - 0x200) / 8 := by rw [hi]; simp only [Fin.ofNat]; omega
    rw [csrValue_timer i (by omega) (by omega), show n.toNat - (0x200 + 8 * i.val) = n.toNat % 8 by omega]
    simp only [setTimer_tm, get_set_same]
    rw [readTimer_writeTimer v _ (by omega), csrMask_timer h1]
  case ignored =>
    rcases h with h | h
    · rw [hl] at h
      cases h
    · exact absurd ((csrReadOnly_iff _).mp h) hro

end Sys2Proof.Machine
end

section
/-! SUPPORT. What a CSR write leaves alone: the numbers that take no write change nothing, a write changes what its own number reads and
little else, and what is no CSR stays. -/

namespace Sys2Proof.Machine

/-! Writes that are ignored (R29). -/

/-- The number takes no write. -/
def ignoresWrite (a : Nat) : Bool := !csrListed a || csrReadOnly a

theorem ignoresWrite_eq_true (a : Nat) : ignoresWrite a = true ↔ csrListed a = false ∨ csrReadOnly a = true := by
  simp only [ignoresWrite, Bool.or_eq_true, Bool.not_eq_true']

theorem ignoresWrite_iff (a : Nat) : ignoresWrite a = true ↔ ¬ csrListed a = true ∨ csrReadOnly a = true := by
  rw [ignoresWrite_eq_true, Bool.not_eq_true]

theorem writeSystem_ignored (v : Reg) (s : State) {a : Nat} (h : ignoresWrite a = true) : writeSystem v s a = s := by
  unfold writeSystem
  split <;> first | rfl | exact absurd h (by decide)

theorem writeOperand_ignored (v : Reg) (s : State) {a : Nat} (h : ignoresWrite a = true) (h1 : 0x010 ≤ a) (h2 : a < 0x034) :
    writeOperand v s a = s := by
  rw [ignoresWrite_iff, csrListed_iff, csrReadOnly_iff] at h
  unfold writeOperand
  rw [if_neg (by omega)]
  by_cases hgap : a < 0x020
  · rw [if_pos hgap]
  · rw [if_neg hgap, if_neg (by omega), if_pos (by omega)]

theorem writeHeader_ignored (v : Reg) (x : Header) {a : Nat} (h : ignoresWrite a = true) : writeHeader v x a = x := by
  unfold writeHeader
  split <;> first | rfl | exact absurd h (by decide)

theorem writeAnnounce_ignored (v : Reg) (x : Announce) {a : Nat} (h : ignoresWrite a = true) : writeAnnounce v x a = x := by
  unfold writeAnnounce
  split <;> first | rfl | exact absurd h (by decide)

theorem writeLeapTlv_ignored (v : Reg) (s : State) {a : Nat} (h : ignoresWrite a = true) : writeLeapTlv v s a = s := by
  unfold writeLeapTlv
  split <;> first | rfl | exact absurd h (by decide)

theorem writeWindow_ignored (v : Reg) (s : State) {a : Nat} (h : ignoresWrite a = true) : writeWindow v s a = s := by
  unfold writeWindow
  split <;> first | rfl | exact absurd h (by decide)

theorem writePort_ignored (v : Reg) (s : State) {a : Nat} (h : ignoresWrite a = true) : writePort v s a = s := by
  unfold writePort
  split <;> first | rfl | exact absurd h (by decide)

theorem writeServoConfig_beyond (v : Reg) (g : ServoConfig) {k : Nat} (h : 0x14 ≤ k) : writeServoConfig v g k = g := by
  unfold writeServoConfig
  split <;> first | rfl | omega

theorem writeServoState_beyond (v : Reg) (x : ServoState) {k : Nat} (h : 0x2E ≤ k) : writeServoState v x k = x := by
  unfold writeServoState
  split <;> first | rfl | omega

theorem writeTimer_beyond (v : Reg) (t : Timer) {j : Nat} (h : 6 ≤ j) : writeTimer v t j = t := by
  unfold writeTimer
  split <;> first | rfl | omega

theorem writeContext_gap (v : Reg) (x : Context) {k : Nat} (h : 0x14 ≤ k ∧ k < 0x18 ∨ 0x2E ≤ k ∧ k < 0x30) :
    writeContext v x k = x := by
  unfold writeContext
  by_cases hk : k < 0x18
  · rw [if_pos hk, writeServoConfig_beyond v _ (by omega)]
  · rw [if_neg hk, if_pos (by omega), writeServoState_beyond v _ (by omega)]

theorem set_get_same {α : Type} {n : Nat} (v : Vector α n) (i : Fin n) : v.set i.val v[i] = v := by
  simp

/-- A write of a read-only or an unlisted number changes nothing. -/
theorem csrWrite_ignored {n : CsrNumber} (v : Reg) (s : State) (h : ignoresWrite n.toNat = true) : csrWrite n v s = s := by
  have hprop := h
  rw [ignoresWrite_iff, csrListed_iff, csrReadOnly_iff] at hprop
  refine csrWrite_cases (P := fun t => t = s) n v s
    (fun _ => writeSystem_ignored v s h) (fun h1 h2 => writeOperand_ignored v s h h1 h2)
    (fun _ _ => by rw [writeHeader_ignored v s.hdr h]) (fun _ _ => by rw [writeAnnounce_ignored v s.ann h])
    (fun _ _ => writeLeapTlv_ignored v s h) (fun _ _ => writeWindow_ignored v s h) (fun _ _ => writePort_ignored v s h)
    (fun h1 h2 c _ => ?context) (fun e => ?now) (fun h1 h2 i _ => ?timer) (fun _ => rfl)
  case context => rw [writeContext_gap v _ (by omega), set_get_same]
  case now => omega
  case timer => rw [writeTimer_beyond v _ (by omega), setTimer, set_get_same]

/-! What is no CSR, and the registers no CSR write but that of `CMD` touches. -/

theorem writeSystem_frame (v : Reg) (s : State) (a : Nat) : ∃ e m, writeSystem v s a = { s with evt := e, evtMask := m } := by
  unfold writeSystem
  split <;> exact ⟨_, _, rfl⟩

theorem writeOperand_frame (v : Reg) (s : State) (a : Nat) :
    ∃ ti ts pid, writeOperand v s a = { s with ti := ti, ts := ts, pid := pid } := by
  refine ⟨(writeOperand v s a).ti, (writeOperand v s a).ts, (writeOperand v s a).pid, ?_⟩
  unfold writeOperand
  split_ifs <;> rfl

theorem writeLeapTlv_frame (v : Reg) (s : State) (a : Nat) :
    ∃ leap tp tlv, writeLeapTlv v s a = { s with leap := leap, tp := tp, tlv := tlv } := by
  unfold writeLeapTlv
  split <;> exact ⟨_, _, _, rfl⟩

theorem writeWindow_frame (v : Reg) (s : State) (a : Nat) :
    ∃ win buf, writeWindow v s a = { s with win := win, buf := buf } ∧ (a ≠ 0x06D → buf = s.buf) := by
  unfold writeWindow
  split
  case h_5 => exact ⟨_, _, rfl, fun h => absurd rfl h⟩
  all_goals exact ⟨_, _, rfl, fun _ => rfl⟩

theorem writePort_frame (v : Reg) (s : State) (a : Nat) : ∃ c, writePort v s a = { s with svActive := c } := by
  unfold writePort
  split <;> exact ⟨_, rfl⟩

/-- What every CSR write leaves. -/
structure WriteKeeps (n : CsrNumber) (s t : State) : Prop where
  status : t.status = s.status
  cmdCnt : t.cmdCnt = s.cmdCnt
  trace : t.trace = s.trace
  inputs : t.inputs = s.inputs
  buf : n ≠ csrBufData → t.buf = s.buf

theorem csrWrite_keeps (n : CsrNumber) (v : Reg) (s : State) : WriteKeeps n s (csrWrite n v s) := by
  refine csrWrite_cases (P := WriteKeeps n s) n v s (fun _ => ?system) (fun _ _ => ?operand) (fun _ _ => ?header) (fun _ _ => ?announce)
    (fun _ _ => ?leapTlv) (fun _ _ => ?window) (fun _ _ => ?port) (fun _ _ c _ => ?context) (fun _ => ?now) (fun _ _ i _ => ?timer)
    (fun _ => ?ignored)
  case system =>
    obtain ⟨e, m, h⟩ := writeSystem_frame v s n.toNat
    rw [h]
    exact ⟨rfl, rfl, rfl, rfl, fun _ => rfl⟩
  case operand =>
    obtain ⟨ti, ts, pid, h⟩ := writeOperand_frame v s n.toNat
    rw [h]
    exact ⟨rfl, rfl, rfl, rfl, fun _ => rfl⟩
  case leapTlv =>
    obtain ⟨leap, tp, tlv, h⟩ := writeLeapTlv_frame v s n.toNat
    rw [h]
    exact ⟨rfl, rfl, rfl, rfl, fun _ => rfl⟩
  case window =>
    obtain ⟨win, buf, h, hbuf⟩ := writeWindow_frame v s n.toNat
    rw [h]
    exact ⟨rfl, rfl, rfl, rfl, fun hn => hbuf (csrNumber_toNat_ne hn)⟩
  case port =>
    obtain ⟨c, h⟩ := writePort_frame v s n.toNat
    rw [h]
    exact ⟨rfl, rfl, rfl, rfl, fun _ => rfl⟩
  all_goals exact ⟨rfl, rfl, rfl, rfl, fun _ => rfl⟩

/-! The transactions that wait are no part of a CSR write. -/

theorem writeOperand_popTxn (v : Reg) (r : List Txn) (s : State) (a : Nat) :
    writeOperand v (popTxn r s) a = popTxn r (writeOperand v s a) := by
  unfold writeOperand
  split_ifs <;> rfl

theorem writeSystem_popTxn (v : Reg) (r : List Txn) (s : State) (a : Nat) :
    writeSystem v (popTxn r s) a = popTxn r (writeSystem v s a) := by
  unfold writeSystem
  split <;> rfl

theorem writeLeapTlv_popTxn (v : Reg) (r : List Txn) (s : State) (a : Nat) :
    writeLeapTlv v (popTxn r s) a = popTxn r (writeLeapTlv v s a) := by
  unfold writeLeapTlv
  split <;> rfl

theorem writeWindow_popTxn (v : Reg) (r : List Txn) (s : State) (a : Nat) :
    writeWindow v (popTxn r s) a = popTxn r (writeWindow v s a) := by
  unfold writeWindow
  split <;> rfl

theorem writePort_popTxn (v : Reg) (r : List Txn) (s : State) (a : Nat) :
    writePort v (popTxn r s) a = popTxn r (writePort v s a) := by
  unfold writePort
  split <;> rfl

theorem csrWrite_popTxn (n : CsrNumber) (v : Reg) (r : List Txn) (s : State) :
    csrWrite n v (popTxn r s) = popTxn r (csrWrite n v s) := by
  unfold csrWrite
  simp only [writeSystem_popTxn, writeOperand_popTxn, writeLeapTlv_popTxn, writeWindow_popTxn, writePort_popTxn, apply_ite (popTxn r)]
  rfl

end Sys2Proof.Machine
end

section
/-! SUPPORT. A write of one CSR and a read of another. Beside the groups of Laws/Csr.lean: the system and the operand registers, the window
with its side effects (R34), and the live bits of `STATUS` (R25). -/

namespace Sys2Proof.Machine

theorem readSystem_writeSystem_ne (v : Reg) (s : State) (a b : Nat) (h : b ≠ a) : readSystem (writeSystem v s a) b = readSystem s b := by
  unfold writeSystem
  split
  case h_3 => rfl
  all_goals
    unfold readSystem
    split <;> first | rfl | exact absurd rfl h

theorem readWindow_writeWindow_ne (v : Reg) (s : State) (a b : Nat) (h : b ≠ a) (hbase : a = 0x068 → b ≠ 0x06B)
    (haddr : a = 0x06C → b ≠ 0x06D) (hdata : a = 0x06D → b ≠ 0x06C) : readWindow (writeWindow v s a) b = readWindow s b := by
  unfold writeWindow
  split
  case h_6 => rfl
  all_goals
    unfold readWindow
    split <;> first | rfl | exact absurd rfl h | simp_all

theorem readPort_writePort_ne (v : Reg) (s : State) (a b : Nat) (h : b ≠ a) : readPort (writePort v s a) b = readPort s b := by
  unfold writePort
  split
  case h_2 => rfl
  case h_1 =>
    unfold readPort
    split <;> first | rfl | exact absurd rfl h

/-! The operand registers: a write of one CSR of a Timestamp or a port identity leaves what the other shows. -/

theorem readOperand_setTi (v : Reg) (s : State) {a b : Nat} (ha1 : 0x010 ≤ a) (ha2 : a < 0x018) (hb1 : 0x010 ≤ b) (h : b ≠ a) :
    readOperand (setTi (Fin.ofNat 8 (a - 0x010)) v s) b = readOperand s b := by
  unfold readOperand
  refine ite_congr rfl (fun hb => get_set_ne _ _ _ _ fun e => ?_) fun _ => rfl
  have := congrArg Fin.val e
  simp only [Fin.ofNat] at this
  omega

theorem readOperand_setTs (v : Reg) (s : State) {a b : Nat} (ha1 : 0x020 ≤ a) (h : b ≠ a) (k : TsReg)
    (hk : k.val = (a - 0x020) / 2) :
    readOperand (setTs k (if a % 2 = 0 then writeTsLo s.ts[k] v else writeTsHi s.ts[k] v) s) b = readOperand s b := by
  unfold readOperand
  refine ite_congr rfl (fun _ => rfl) fun _ => ite_congr rfl (fun _ => rfl) fun hb => ite_congr rfl (fun hb' => ?_) fun _ => rfl
  by_cases hj : Fin.ofNat 4 ((b - 0x020) / 2) = k
  · have hval := congrArg Fin.val hj
    simp only [Fin.ofNat] at hval
    simp only [hj, setTs_ts, get_set_same]
    by_cases hpar : b % 2 = 0
    · simp only [if_pos hpar, if_neg (show ¬ a % 2 = 0 by omega)]
      rfl
    · simp only [if_neg hpar, if_pos (show a % 2 = 0 by omega)]
      rfl
  · simp only [setTs_ts, get_set_ne _ _ _ _ hj]

theorem readOperand_setPid (v : Reg) (s : State) {a b : Nat} (ha1 : 0x030 ≤ a) (hb2 : b < 0x034) (h : b ≠ a) (k : PidReg)
    (hk : k.val = (a - 0x030) / 2) :
    readOperand (setPid k (if a % 2 = 0 then { s.pid[k] with cid := v } else { s.pid[k] with port := slice v 0 16 }) s) b
      = readOperand s b := by
  unfold readOperand
  refine ite_congr rfl (fun _ => rfl) fun _ => ite_congr rfl (fun _ => rfl) fun _ => ite_congr rfl (fun _ => rfl) fun _ =>
    ite_congr rfl (fun _ => rfl) fun hb => ?_
  by_cases hj : Fin.ofNat 2 ((b - 0x030) / 2) = k
  · have hval := congrArg Fin.val hj
    simp only [Fin.ofNat] at hval
    simp only [hj, setPid_pid, get_set_same]
    by_cases hpar : b % 2 = 0
    · simp only [if_pos hpar, if_neg (show ¬ a % 2 = 0 by omega)]
    · simp only [if_neg hpar, if_pos (show a % 2 = 0 by omega)]
  · simp only [setPid_pid, get_set_ne _ _ _ _ hj]

theorem readOperand_writeOperand_ne (v : Reg) (s : State) (a b : Nat) (ha1 : 0x010 ≤ a) (ha2 : a < 0x034) (hb1 : 0x010 ≤ b)
    (hb2 : b < 0x034) (h : b ≠ a) : readOperand (writeOperand v s a) b = readOperand s b := by
  unfold writeOperand
  by_cases hti : a < 0x018
  · rw [if_pos hti, readOperand_setTi v s ha1 hti hb1 h]
  by_cases hgap : a < 0x020
  · rw [if_neg hti, if_pos hgap]
  by_cases hts : a < 0x028
  · rw [if_neg hti, if_neg hgap, if_pos hts]
    exact readOperand_setTs v s (by omega) h _ (by simp only [Fin.ofNat]; omega)
  by_cases hgap' : a < 0x030
  · rw [if_neg hti, if_neg hgap, if_neg hts, if_pos hgap']
  · rw [if_neg hti, if_neg hgap, if_neg hts, if_neg hgap']
    exact readOperand_setPid v s (by omega) hb2 h _ (by simp only [Fin.ofNat]; omega)

/-- Only `STATUS` among the system registers shows a servo context. -/
theorem readSystem_servo (s : State) (c : CtxId) (sv : Vector Context 2) {b : Nat} (h : b ≠ 0x001) :
    readSystem { s with svActive := c, sv := sv } b = readSystem s b := by
  unfold readSystem
  split <;> first | exact absurd rfl h | rfl

/-- The live view of `STATUS` is four registers of the active context, all of them in `SV_STATE`. -/
theorem writeContext_live (v : Reg) (x : Context) {k : Nat} (h : k ≠ 0x18) :
    (writeContext v x k).st.clockState = x.st.clockState ∧ (writeContext v x k).st.stableOffset = x.st.stableOffset
      ∧ (writeContext v x k).st.offsetOk = x.st.offsetOk ∧ (writeContext v x k).st.holdoverOk = x.st.holdoverOk := by
  unfold writeContext
  split
  · exact ⟨rfl, rfl, rfl, rfl⟩
  · split
    · unfold writeServoState
      split <;> first | exact ⟨rfl, rfl, rfl, rfl⟩ | exact absurd rfl h
    · exact ⟨rfl, rfl, rfl, rfl⟩

theorem statusImage_writeContext (v : Reg) (s : State) (c : CtxId) (k : Nat) (h : c ≠ s.svActive ∨ k ≠ 0x18) :
    statusImage { s with sv := s.sv.set c.val (writeContext v s.sv[c] k) } = statusImage s := by
  by_cases hc : s.svActive = c
  · obtain ⟨hclock, hstable, hok, hho⟩ := writeContext_live v s.sv[c] (h.resolve_left (fun hne => hne hc.symm))
    simp only [statusImage, activeContext, hc, get_set_same, hclock, hstable, hok, hho]
  · simp only [statusImage, activeContext, get_set_ne _ _ _ _ hc]

theorem readSystem_writeContext (v : Reg) (s : State) (c : CtxId) (k b : Nat) (h : b = 0x001 → c ≠ s.svActive ∨ k ≠ 0x18) :
    readSystem { s with sv := s.sv.set c.val (writeContext v s.sv[c] k) } b = readSystem s b := by
  by_cases hb : b = 0x001
  · rw [hb]
    exact statusImage_writeContext v s c k (h hb)
  · exact readSystem_servo s s.svActive _ hb

/-- A write leaves what every other number reads, but for the side effects of R34 and the live view of R25. -/
theorem csrValue_csrWrite_ne {n m : CsrNumber} (v : Reg) (s : State) (hne : m ≠ n) (hshows : ¬ WriteShows s n m) :
    csrValue (csrWrite n v s) m = csrValue s m := by
  have hnum : m.toNat ≠ n.toNat := csrNumber_toNat_ne hne
  have hcsr : ∀ {x y : CsrNumber}, x.toNat = y.toNat → x = y := fun h => BitVec.eq_of_toNat_eq h
  refine csrWrite_cases (P := fun t => csrValue t m = csrValue s m) n v s
    (fun _ => ?system) (fun h1 h2 => ?operand) (fun _ _ => ?header) (fun _ _ => ?announce) (fun _ _ => ?leapTlv)
    (fun _ _ => ?window) (fun h1 h2 => ?port) (fun h1 h2 c hc => ?context) (fun h => ?now) (fun h1 h2 i hi => ?timer) (fun _ => rfl)
  case system =>
    have hread := readSystem_writeSystem_ne v s _ _ hnum
    obtain ⟨e, k, h⟩ := writeSystem_frame v s n.toNat
    rw [h] at hread ⊢
    exact csrValue_congr (system := fun _ => hread)
  case operand =>
    have hread := fun hm1 hm2 => readOperand_writeOperand_ne v s n.toNat m.toNat h1 h2 hm1 hm2 hnum
    obtain ⟨ti, ts, pid, h⟩ := writeOperand_frame v s n.toNat
    rw [h] at hread ⊢
    exact csrValue_congr (operand := hread)
  case header => exact csrValue_congr (header := readHeader_writeHeader_ne v s.hdr _ _ hnum)
  case announce => exact csrValue_congr (announce := readAnnounce_writeAnnounce_ne v s.ann _ _ hnum)
  case leapTlv =>
    have hread := readLeapTlv_writeLeapTlv_ne v s _ _ hnum
    obtain ⟨leap, tp, tlv, h⟩ := writeLeapTlv_frame v s n.toNat
    rw [h] at hread ⊢
    exact csrValue_congr (leapTlv := hread)
  case window =>
    have hread := readWindow_writeWindow_ne v s n.toNat m.toNat hnum
      (fun hn hm => hshows (.inl ⟨hcsr hn, hcsr hm⟩)) (fun hn hm => hshows (.inr (.inl ⟨hcsr hn, hcsr hm⟩)))
      (fun hn hm => hshows (.inr (.inr (.inl ⟨hcsr hn, hcsr hm⟩))))
    obtain ⟨win, buf, h, -⟩ := writeWindow_frame v s n.toNat
    rw [h] at hread ⊢
    exact csrValue_congr (window := hread)
  case port =>
    by_cases hn : n.toNat = 0x0F0
    · have hread := readPort_writePort_ne v s _ _ hnum
      have hstatus : m.toNat ≠ 0x001 := fun hm => hshows (.inr (.inr (.inr ⟨hcsr hm, .inl (hcsr hn)⟩)))
      obtain ⟨c, h⟩ := writePort_frame v s n.toNat
      rw [h] at hread ⊢
      exact csrValue_congr (port := hread) (system := fun _ => readSystem_servo s c s.sv hstatus)
    · have hsame : writePort v s n.toNat = s := by
        unfold writePort
        split <;> first | rfl | exact absurd ‹_› hn
      rw [hsame]
  case context =>
    have hval : c.val = (n.toNat - 0x100) / 0x40 := by rw [hc]; simp only [Fin.ofNat]; omega
    refine csrValue_congr (system := fun _ => readSystem_writeContext v s c _ _ fun hm => ?_) (context := fun hm1 hm2 => ?_)
    · by_contra! hlive
      obtain ⟨hactive, hk⟩ := hlive
      refine hshows (.inr (.inr (.inr ⟨hcsr hm, .inr (hcsr ?_)⟩)))
      rw [← hactive, BitVec.toNat_ofNat]
      omega
    · by_cases hj : Fin.ofNat 2 ((m.toNat - 0x100) / 0x40) = c
      · have hjval := congrArg Fin.val hj
        simp only [Fin.ofNat] at hjval
        simp only [hj, get_set_same]
        exact readContext_writeContext_ne v _ _ _ (Nat.mod_lt _ (by decide)) (Nat.mod_lt _ (by decide)) (by omega)
      · simp only [get_set_ne _ _ _ _ hj]
  case now => exact csrValue_congr (now := fun hm => absurd (hm.trans h.symm) hnum)
  case timer =>
    have hval : i.val = (n.toNat - 0x200) / 8 := by rw [hi]; simp only [Fin.ofNat]; omega
    refine csrValue_congr (timer := fun hm1 hm2 => ?_)
    by_cases hj : Fin.ofNat 8 ((m.toNat - 0x200) / 8) = i
    · have hjval := congrArg Fin.val hj
      simp only [Fin.ofNat] at hjval
      simp only [hj, setTimer_tm, get_set_same]
      exact readTimer_writeTimer_ne v _ _ _ (by omega)
    · simp only [setTimer_tm, get_set_ne _ _ _ _ hj]

/-- Settles O9. -/
theorem csrWriteReadBack : Obligations.CsrWriteReadBack := by
  unfold Obligations.CsrWriteReadBack
  refine ⟨fun n v s hp => csrValue_csrWrite v s hp, fun n v s h => csrWrite_ignored v s ((ignoresWrite_eq_true _).mpr h),
    fun n s h => csrValue_unlisted s h, fun v s => rfl, fun n v s => ?_, fun n m v s hne h => csrValue_csrWrite_ne v s hne h,
    fun n v s => ?_, fun n v s rest hnext hcmd => ?_⟩
  · have hkeeps := csrWrite_keeps n v s
    exact ⟨hkeeps.status, hkeeps.cmdCnt⟩
  · have hkeeps := csrWrite_keeps n v s
    exact ⟨hkeeps.trace, hkeeps.inputs, hkeeps.buf⟩
  · rw [step_of_next_wr hnext hcmd, csrWrite_popTxn, ← (csrWrite_keeps n v s).inputs]
    rfl

end Sys2Proof.Machine
end

section
/-! SUPPORT. Values of several bytes in `BUF` (R72, R73): big-endian numbers, the bytes of a value, and a read after a write. -/

namespace Sys2Proof.Machine

/-- Reading on after a value `n` puts it above the bytes that follow. -/
theorem bigEndian_from (bs : List Byte) (n : Nat) :
    bs.foldl (fun n b => n * 256 + b.toNat) n = n * 256 ^ bs.length + bigEndian bs := by
  induction bs generalizing n with
  | nil => simp [bigEndian]
  | cons b bs ih =>
    rw [bigEndian, List.foldl_cons, List.foldl_cons, ih, ih (0 * 256 + _), List.length_cons]
    ring

/-- The first byte is the most significant one (R72). -/
theorem bigEndian_cons (b : Byte) (bs : List Byte) : bigEndian (b :: bs) = b.toNat * 256 ^ bs.length + bigEndian bs := by
  rw [bigEndian, List.foldl_cons, bigEndian_from, Nat.zero_mul, Nat.zero_add]

theorem bigEndian_bytesOf (v n : Nat) : bigEndian (bytesOf v n) = v % 256 ^ n := by
  induction n with
  | zero => rw [Nat.pow_zero, Nat.mod_one]; rfl
  | succ n ih =>
    rw [bytesOf, bigEndian_cons, bytesOf_length, ih, BitVec.toNat_ofNat, Nat.mod_pow_succ (b := 256), Nat.mul_comm, Nat.add_comm]

/-- A read of `n + 1` bytes is the first byte and a read of the `n` bytes after it (R73). -/
theorem memRead_succ (m : Memory) (off n : Nat) : memRead m off (n + 1) = (readByte m off).toNat * 256 ^ n + memRead m (off + 1) n := by
  rw [memRead, readBytes, bigEndian_cons, readBytes_length, ← memRead]

theorem memRead_one (m : Memory) (off : Nat) : memRead m off 1 = (readByte m off).toNat := by
  rw [memRead_succ, Nat.pow_zero, Nat.mul_one]
  rfl

/-- The first byte stored is the first of the list, when there is room for it. -/
theorem readByte_writeBytes_first (v : Byte) (vs : List Byte) (m : Memory) (a : Nat) (h : a < bufBytes) :
    readByte (writeBytes m a (v :: vs)) a = v := by
  rw [writeBytes, readByte_writeBytes_outside vs _ _ _ (.inl (Nat.lt_succ_self a)), readByte_writeByte_same m a v h]

theorem readBytes_writeBytes (bs : List Byte) (m : Memory) (a : Nat) (h : a + bs.length ≤ bufBytes) :
    readBytes (writeBytes m a bs) a bs.length = bs := by
  induction bs generalizing m a with
  | nil => rfl
  | cons v vs ih =>
    rw [List.length_cons] at h ⊢
    rw [readBytes, readByte_writeBytes_first v vs m a (by omega), writeBytes, ih _ _ (by omega)]

theorem memRead_memWrite (m : Memory) (off n v : Nat) (h : off + n ≤ bufBytes) :
    memRead (memWrite off n v m) off n = v % 256 ^ n := by
  have hread := readBytes_writeBytes (bytesOf v n) m off (by rwa [bytesOf_length])
  rw [bytesOf_length] at hread
  rw [memRead, memWrite, hread, bigEndian_bytesOf]

/-- The first wire byte of a clock identity is its most significant one (R73). -/
theorem readByte_putPid_first (m : Memory) (off : Nat) (p : PortId) (h : off < bufBytes) :
    readByte (putPid off p m) off = p.cid.extractLsb' 56 8 := by
  have hport : readByte (putPid off p m) off = readByte (memWrite off 8 p.cid.toNat m) off :=
    readByte_writeBytes_outside _ _ _ _ (.inl (by omega))
  rw [hport, memWrite, bytesOf, readByte_writeBytes_first _ _ _ _ h]
  refine BitVec.eq_of_toNat_eq ?_
  rw [BitVec.extractLsb'_toNat, BitVec.toNat_ofNat, Nat.shiftRight_eq_div_pow]
  rfl

theorem csrValue_bufData (s : State) (h : s.win.addr.toNat < bufBytes) :
    csrValue s csrBufData = (readByte s.buf s.win.addr.toNat).setWidth 64 := by
  rw [csrValue_window (by decide) (by decide)]
  exact if_pos h

/-- Settles O24: each clause is one of the laws above. -/
theorem bigEndianAccess : Obligations.BigEndianAccess := by
  unfold Obligations.BigEndianAccess
  intro m off n v
  have hsucc : ∀ k, memRead m off (k + 1) = memRead m off 1 * 256 ^ k + memRead m (off + 1) k := fun k => by
    rw [memRead_succ, memRead_one]
  refine ⟨memRead_one m off, hsucc 1, hsucc n, memRead_memWrite m off n v, fun s h => ?_,
    fun p h => readByte_putPid_first m off p (by unfold bufBytes; omega)⟩
  rw [csrValue_bufData s h, memRead_one, BitVec.ofNat_toNat]

end Sys2Proof.Machine
end

section
/-! SUPPORT. What a command stores in `BUF` (R74, R77): bytes inside the ranges its rule lists, all of them in the window, and nothing when
its rule lists none. -/

namespace Sys2Proof.Machine

/-- The `n` bytes from `a` on lie in one of the ranges. -/
def Within (rs : List (Nat × Nat)) (a n : Nat) : Prop := ∃ r ∈ rs, r.1 ≤ a ∧ a + n ≤ r.1 + r.2

theorem Within.sub {rs : List (Nat × Nat)} {a n : Nat} (h : Within rs a n) {b k : Nat} (hb : a ≤ b) (hk : b + k ≤ a + n) :
    Within rs b k := by
  obtain ⟨r, hr, hlo, hhi⟩ := h
  exact ⟨r, hr, by omega, by omega⟩

theorem within_of_mem {rs : List (Nat × Nat)} {a n : Nat} (h : (a, n) ∈ rs) : Within rs a n := ⟨(a, n), h, le_rfl, le_rfl⟩

theorem within_single (a n : Nat) : Within [(a, n)] a n := within_of_mem List.mem_cons_self

/-- The memory `m` after any number of byte stores inside the ranges. -/
inductive StoredIn (rs : List (Nat × Nat)) (m : Memory) : Memory → Prop
  | refl : StoredIn rs m m
  | byte {m' : Memory} (h : StoredIn rs m m') (a : Nat) (v : Byte) (ha : Within rs a 1) : StoredIn rs m (writeByte m' a v)

namespace StoredIn

variable {rs : List (Nat × Nat)} {m m' : Memory}

theorem wf (h : StoredIn rs m m') (hm : m.wf = true) : m'.wf = true := by
  induction h with
  | refl => exact hm
  | byte _ a v _ ih => exact writeByte_wf _ a v ih

theorem readByte_outside (h : StoredIn rs m m') {x : Nat} (hx : ∀ r ∈ rs, x < r.1 ∨ r.1 + r.2 ≤ x) :
    readByte m' x = readByte m x := by
  induction h with
  | refl => rfl
  | byte _ a v ha ih =>
    obtain ⟨r, hr, hlo, hhi⟩ := ha
    have hxr := hx r hr
    rw [readByte_writeByte_ne _ a v x (by omega), ih]

theorem eq_of_nil (h : StoredIn [] m m') : m' = m := by
  cases h with
  | refl => rfl
  | byte _ a v ha =>
    obtain ⟨r, hr, -⟩ := ha
    exact absurd hr List.not_mem_nil

theorem bytes (h : StoredIn rs m m') (a : Nat) (bs : List Byte) (hw : Within rs a bs.length) : StoredIn rs m (writeBytes m' a bs) := by
  induction bs generalizing m' a with
  | nil => exact h
  | cons v vs ih =>
    rw [List.length_cons] at hw
    exact ih (h.byte a v (hw.sub (by omega) (by omega))) _ (hw.sub (by omega) (by omega))

theorem value (h : StoredIn rs m m') (off n v : Nat) (hw : Within rs off n) : StoredIn rs m (memWrite off n v m') :=
  h.bytes off _ (by rwa [bytesOf_length])

theorem timestamp (h : StoredIn rs m m') (off : Nat) (t : Timestamp) (hw : Within rs off 10) : StoredIn rs m (putTs off t m') :=
  ((h.value off 2 _ (hw.sub (by omega) (by omega))).value (off + 2) 4 _ (hw.sub (by omega) (by omega))).value (off + 6) 4 _
    (hw.sub (by omega) (by omega))

theorem portId (h : StoredIn rs m m') (off : Nat) (p : PortId) (hw : Within rs off 10) : StoredIn rs m (putPid off p m') :=
  (h.value off 8 _ (hw.sub (by omega) (by omega))).value (off + 8) 2 _ (hw.sub (by omega) (by omega))

end StoredIn

@[simp] theorem headerBytes_length (h : Header) : (headerBytes h).length = 34 := rfl

@[simp] theorem announceBytes_length (x : Announce) (utc : BitVec 16) : (announceBytes x utc).length = 20 := rfl

theorem StoredIn.announce {rs : List (Nat × Nat)} {m : Memory} {s : State} (h : StoredIn rs m s.buf) (t : Timestamp) (utc : BitVec 16)
    (hw : Within rs (base s + 34) 30) : StoredIn rs m (putAnnounce t utc s).buf :=
  (h.timestamp (base s + 34) t (hw.sub (by omega) (by omega))).bytes (base s + 44) _
    (hw.sub (by omega) (by rw [announceBytes_length]))

/-- The command's stores from `s` to `u` are those its rule allows: in its ranges, all of which lie in the window. -/
structure StoresAllowed (i : Instr) (s u : State) : Prop where
  inWindow : ∀ r ∈ storedRanges i s, InWindow s r.1 r.2
  stored : StoredIn (storedRanges i s) s.buf u.buf

theorem StoresAllowed.single {i : Instr} {s u : State} {a n : Nat} (hr : storedRanges i s = [(a, n)]) (hw : InWindow s a n)
    (hs : StoredIn [(a, n)] s.buf u.buf) : StoresAllowed i s u := by
  refine ⟨fun r hmem => ?_, hr ▸ hs⟩
  rw [hr, List.mem_singleton] at hmem
  rw [hmem]
  exact hw

/-- Whenever the command completes, its stores are those its rule allows. -/
def StoresByRule (i : Instr) : Prop := ∀ s t, exec i s = .next t → t.status.ok = true → StoresAllowed i s t

theorem storesByRule_of_post {i : Instr} {body : Body} (hi : ∀ s, exec i s = command body s)
    (h : ∀ s, Post (body s) fun p => StoresAllowed i s p.1) : StoresByRule i := fun s t ht hok => by
  rw [hi, command_next] at ht
  rcases ht with ⟨u, v, hu, rfl⟩ | ⟨e, -, rfl⟩
  · obtain ⟨hwindow, hstored⟩ := h s _ hu
    exact ⟨hwindow, hstored⟩
  · exact absurd hok Bool.false_ne_true

/-- After a check of the window, the range is known to lie in it. -/
theorem post_window {β : Type} {s : State} {off n : Nat} {f : Unit → Result β} {P : β → Prop}
    (hf : InWindow s off n → Post (f ()) P) : Post (needWindow s off n >>= f) P :=
  post_bind (Q := fun _ => InWindow s off n) (fun a ha => (inWindow_prop s off n).mpr ((needWindow_ok s off n a).mp ha)) fun _ => hf

/-! The `PK.*` commands (R215 to R242). -/

theorem pkHdr_storesByRule : StoresByRule .pkHdr := by
  refine storesByRule_of_post (fun _ => rfl) fun s => post_window fun hw => post_pure ?_
  exact .single rfl hw (StoredIn.refl.bytes _ _ (within_single _ _))

theorem pkTs_storesByRule (a : TsReg) : StoresByRule (.pkTs a) := by
  refine storesByRule_of_post (fun _ => rfl) fun s => post_check fun _ => post_window fun hw => post_check fun _ => post_pure ?_
  exact .single rfl hw (StoredIn.refl.timestamp _ _ (within_single _ _))

theorem pkPd_storesByRule (a : TsReg) (p : PidReg) : StoresByRule (.pkPd a p) := by
  refine storesByRule_of_post (fun _ => rfl) fun s => post_check fun _ => post_window fun hw => post_check fun _ => post_pure ?_
  have hall := within_single (base s + 34) 20
  exact .single rfl hw
    ((StoredIn.refl.timestamp (base s + 34) _ (hall.sub (by omega) (by omega))).portId (base s + 44) _ (hall.sub (by omega) (by omega)))

/-- The body is stored in both cases; as its own grandmaster the node also stores byte 7, with the leap flags (R232). -/
theorem pkAnn_storesByRule (a : TsReg) : StoresByRule (.pkAnn a) := by
  refine storesByRule_of_post (fun _ => rfl) fun s => post_window fun hw => post_check fun _ => ?_
  obtain ⟨hvalid, hend, hlo, hhi⟩ := hw
  have hbody : InWindow s (base s + 34) 30 := ⟨hvalid, hend, by omega, by omega⟩
  have hflags : InWindow s (base s + 7) 1 := ⟨hvalid, hend, by omega, by omega⟩
  by_cases hown : s.leap.localCid = s.ann.gmId
  · have hranges : storedRanges (.pkAnn a) s = [(base s + 7, 1), (base s + 34, 30)] := if_pos hown
    rw [if_pos hown]
    refine post_check fun p => post_pure ⟨?_, ?_⟩
    · rw [hranges, List.forall_mem_cons, List.forall_mem_singleton]
      exact ⟨hflags, hbody⟩
    · rw [hranges]
      exact (StoredIn.refl.byte (base s + 7) _ (within_of_mem List.mem_cons_self)).announce (s := persist p s) _ _
        (within_of_mem (List.mem_cons_of_mem _ List.mem_cons_self))
  · rw [if_neg hown]
    exact post_pure (.single (if_neg hown) hbody (StoredIn.refl.announce _ _ (within_single _ _)))

theorem pkSig_storesByRule (p : PidReg) : StoresByRule (.pkSig p) := by
  refine storesByRule_of_post (fun _ => rfl) fun s => post_check fun _ => post_window fun hw => post_pure ?_
  exact .single rfl hw (StoredIn.refl.portId _ _ (within_single _ _))

theorem pkTlv_storesByRule : StoresByRule .pkTlv := by
  refine storesByRule_of_post (fun _ => rfl) fun s => post_window fun hw => post_check fun _ => post_pure ?_
  refine .single rfl hw (StoredIn.refl.bytes _ _ ?_)
  rw [List.length_append, List.length_append, bytesOf_length, bytesOf_length, readBytes_length]
  exact within_single _ _

/-! The commands that store nothing: `BUF` is the same after every way they can end. -/

/-- The command leaves `BUF` as it was. -/
def KeepsBuf (i : Instr) : Prop := ∀ s t, exec i s = .next t → t.buf = s.buf

theorem KeepsBuf.storesByRule {i : Instr} (h : KeepsBuf i) (hr : ∀ s, storedRanges i s = []) : StoresByRule i := fun s t ht _ => by
  refine ⟨fun r hmem => ?_, ?_⟩
  · rw [hr] at hmem
    exact absurd hmem List.not_mem_nil
  · rw [h s t ht]
    exact .refl

theorem keepsBuf_of_post {i : Instr} {body : Body} (hi : ∀ s, exec i s = command body s)
    (h : ∀ s, Post (body s) fun p => p.1.buf = s.buf) : KeepsBuf i := fun s t ht => by
  rw [hi, command_next] at ht
  rcases ht with ⟨u, v, hu, rfl⟩ | ⟨e, -, rfl⟩
  · exact h s _ hu
  · rfl

theorem keepsBuf_plain {i : Instr} {f : State → State} (hi : ∀ s, exec i s = command (plain f) s) (h : ∀ s, (f s).buf = s.buf) :
    KeepsBuf i := keepsBuf_of_post hi fun s => post_ok (h s)

theorem keepsBuf_toTi {i : Instr} {d : TiReg} {f : State → Result TimeInterval} (hi : ∀ s, exec i s = command (toTi d f) s) :
    KeepsBuf i := keepsBuf_of_post hi fun _ => post_check fun _ => post_pure rfl

@[simp] theorem eventIf_buf (c : Bool) (b : BitVec 12) (s : State) : (eventIf c b s).buf = s.buf := by
  cases c <;> rfl

@[simp] theorem mirror_buf (c : CtxId) (s : State) : (mirror c s).buf = s.buf := rfl

@[simp] theorem resetFilters_buf (c : CtxId) (s : State) : (resetFilters c s).buf = s.buf := rfl

@[simp] theorem disarm_buf (i : TmrId) (s : State) : (disarm i s).buf = s.buf := rfl

@[simp] theorem emitAll_buf (cs : List Call) (s : State) : (emitAll cs s).buf = s.buf := by
  induction cs generalizing s with
  | nil => rfl
  | cons c cs ih => exact ih (emit c s)

@[simp] theorem fire_buf (i : TmrId) (s : State) : (fire i s).buf = s.buf := by
  rw [fire_frame]

theorem arm_buf {i : TmrId} {ticks : Nat} {rep : Bool} {s u : State} (h : arm i ticks rep s = .ok u) : u.buf = s.buf := by
  obtain ⟨-, rfl⟩ := (arm_ok i ticks rep s u).mp h
  rfl

theorem doStep_buf {c : CtxId} {raw : Int} {t1 : Timestamp} {corr : Int} {s u : State} (h : doStep c raw t1 corr s = .ok u) :
    u.buf = s.buf := by
  obtain ⟨call, a, -, ha, rfl⟩ := doStep_ok c raw t1 corr s u h
  rw [mirror_buf, event_buf, arm_buf ha, resetFilters_buf, setSt_buf, emit_buf]

theorem servoEval_buf {c : CtxId} {off : TimeInterval} {now : Timestamp} {s u : State} (h : servoEval c off now s = .ok u) :
    u.buf = s.buf := by
  obtain ⟨dt, p, ratio, -, -, -, st, -, rfl⟩ := servoEval_ok c off now s u h
  simp only [mirror_buf, eventIf_buf, setSt_buf, emitAll_buf]

theorem applyHoldover_buf {c : CtxId} {s u : State} (h : applyHoldover c s = .ok u) : u.buf = s.buf := by
  rcases applyHoldover_ok c s u h with ⟨-, rfl⟩ | ⟨-, r, -, rfl⟩ <;> rfl

theorem tickOne_buf (now : Nat) (acc : State × Bool) (i : TmrId) : Post (tickOne now acc i) fun p => p.1.buf = acc.1.buf := by
  obtain ⟨s, fired⟩ := acc
  rintro ⟨u, g⟩ hu
  rcases tickOne_ok now s u fired g i hu with ⟨-, -, rfl, -⟩ | ⟨-, -, -, -, t, -, rfl⟩ | ⟨-, rfl, -⟩
  · rfl
  · exact fire_buf i _
  · rfl

theorem foldTicks_buf (now : Nat) (is : List TmrId) (acc : State × Bool) :
    Post (is.foldlM (tickOne now) acc) fun p => p.1.buf = acc.1.buf := by
  induction is generalizing acc with
  | nil => exact post_pure rfl
  | cons i is ih =>
    rw [List.foldlM_cons]
    exact post_bind (tickOne_buf now acc i) fun a ha => post_mono (ih a) fun _ hp => hp.trans ha

theorem fltStep_keepsBuf (x : CtxId) (y : FltId) (a d : TiReg) : KeepsBuf (.fltStep x y a d) := fun s t h => by
  rcases fltStep_next x y a d s t h with ⟨e, -, rfl⟩ | ⟨F, ⟨-, rfl⟩ | ⟨v, -, rfl⟩⟩ <;>
    simp only [takeError_buf, complete_buf, setTi_buf, setFlt_buf]

theorem svReset_keepsBuf (c : CtxId) : KeepsBuf (.svReset c) := by
  refine keepsBuf_plain (fun _ => rfl) fun s => ?_
  dsimp only
  split <;> simp only [mirror_buf, eventIf_buf, disarm_buf, resetFilters_buf, setSt_buf]

theorem svDelay_keepsBuf (c : CtxId) (a b : TsReg) (i : TiReg) : KeepsBuf (.svDelay c a b i) := fun s t h => by
  rcases svDelay_next c a b i s t h with ⟨e, rfl, -⟩ | ⟨-, rfl⟩ | ⟨F, ⟨-, -, rfl⟩ | ⟨y, -, -, rfl⟩⟩ <;>
    simp only [takeError_buf, complete_buf, setSt_buf, setFlt_buf]

theorem svOffset_keepsBuf (c : CtxId) (a b : TsReg) (i : TiReg) : KeepsBuf (.svOffset c a b i) := fun s t h => by
  rcases svOffset_next c a b i s t h with ⟨e, rfl, -⟩ | ⟨-, -, hends⟩
  · rw [takeError_buf]
  · rcases hends with ⟨-, -, rfl⟩ | ⟨-, -, u, hu, rfl⟩ | ⟨-, -, F, ⟨-, rfl⟩ | ⟨y, u, -, hu, rfl⟩⟩
    · rw [complete_buf, setSt_buf]
    · rw [complete_buf, doStep_buf hu]
    · rw [complete_buf, setFlt_buf, setSt_buf]
    · rw [complete_buf, servoEval_buf hu, setSt_buf, setFlt_buf, setSt_buf]

theorem svPid_keepsBuf (c : CtxId) (o : TiReg) (n : TsReg) : KeepsBuf (.svPid c o n) := fun s t h => by
  rcases svPid_next c o n s t h with ⟨e, rfl, -⟩ | ⟨-, -, rfl⟩ | ⟨u, -, -, -, hu, rfl⟩
  · rw [takeError_buf]
  · rw [complete_buf]
  · rw [complete_buf, servoEval_buf hu, setSt_buf]

theorem svSwitch_keepsBuf : KeepsBuf .svSwitch := by
  refine keepsBuf_of_post (fun _ => rfl) fun s => ?_
  have hdisarmed : (disarm (settleTimer s.svActive) (resetFilters (otherCtx s.svActive)
      (setSt (otherCtx s.svActive) (switchedState s.sv[s.svActive].st s.sv[otherCtx s.svActive].st) s))).buf = s.buf := by
    rw [disarm_buf, resetFilters_buf, setSt_buf]
  refine post_check fun _ => post_ite
    (post_bind (Q := fun u => u.buf = s.buf) (fun _ hu => (arm_buf hu).trans hdisarmed) fun u hu => ?_)
    (post_bind (Q := fun u => u.buf = s.buf) (post_ok hdisarmed) fun u hu => ?_) <;>
    exact post_pure ((eventIf_buf _ _ _).trans hu)

theorem svLost_keepsBuf (c : CtxId) : KeepsBuf (.svLost c) := fun s t h => by
  rcases svLost_next c s t h with ⟨e, rfl, -⟩ | ⟨-, -, u, hu, rfl⟩
  · rfl
  · simp only [complete_buf, mirror_buf, eventIf_buf, disarm_buf, resetFilters_buf, setSt_buf]
    exact applyHoldover_buf hu

theorem tmTick_keepsBuf (a : TiReg) : KeepsBuf (.tmTick a) := by
  refine keepsBuf_of_post (fun _ => rfl) fun s => post_check fun _ => ?_
  exact post_bind (foldTicks_buf _ allTimers _) fun p hp => post_pure hp

/-! All commands. -/

theorem exec_storesByRule (i : Instr) : StoresByRule i := by
  cases i with
  | pkHdr => exact pkHdr_storesByRule
  | pkTs a => exact pkTs_storesByRule a
  | pkPd a p => exact pkPd_storesByRule a p
  | pkAnn a => exact pkAnn_storesByRule a
  | pkSig p => exact pkSig_storesByRule p
  | pkTlv => exact pkTlv_storesByRule
  | fltStep x y a d => exact (fltStep_keepsBuf x y a d).storesByRule fun _ => rfl
  | svReset c => exact (svReset_keepsBuf c).storesByRule fun _ => rfl
  | svDelay c a b i => exact (svDelay_keepsBuf c a b i).storesByRule fun _ => rfl
  | svOffset c a b i => exact (svOffset_keepsBuf c a b i).storesByRule fun _ => rfl
  | svPid c o n => exact (svPid_keepsBuf c o n).storesByRule fun _ => rfl
  | svSwitch => exact svSwitch_keepsBuf.storesByRule fun _ => rfl
  | svLost c => exact (svLost_keepsBuf c).storesByRule fun _ => rfl
  | tmTick a => exact (tmTick_keepsBuf a).storesByRule fun _ => rfl
  | nop | tiMov _ _ | tiHalf _ _ | tiToNs _ _ | tiCmp _ _ | tsMov _ _ | fltReset _ _ | svStat _ | ccFreq _ _ | ccDelta _ _
  | ccPhase _ _ | ccGetTime _ _ | sysReset =>
    refine KeepsBuf.storesByRule (keepsBuf_plain (fun _ => rfl) fun s => ?_) fun _ => rfl
    rfl
  | tiAdd _ _ _ | tiSub _ _ _ | tiNeg _ _ | tiAbs _ _ | tiFromNs _ _ | tiMulI _ _ _ | tiDivI _ _ _ | tsSub _ _ _ | tsDiffC _ _ _ _ =>
    exact (keepsBuf_toTi fun _ => rfl).storesByRule fun _ => rfl
  | upHdr | upTs _ | upPd _ _ | upAnn _ | upSig _ | ccSetTime _ _ =>
    refine KeepsBuf.storesByRule (keepsBuf_of_post (fun _ => rfl) fun s => ?_) fun _ => rfl
    exact post_check fun _ => post_pure rfl
  | tsAddI _ _ _ | tmInit _ _ =>
    refine KeepsBuf.storesByRule (keepsBuf_of_post (fun _ => rfl) fun s => ?_) fun _ => rfl
    exact post_check fun _ => post_check fun _ => post_pure rfl
  | upTlv =>
    refine KeepsBuf.storesByRule (keepsBuf_of_post (fun _ => rfl) fun s => ?_) fun _ => rfl
    exact post_check fun _ => post_check fun _ => post_check fun _ => post_pure rfl
  | tmStart _ _ _ =>
    refine KeepsBuf.storesByRule (keepsBuf_of_post (fun _ => rfl) fun s => ?_) fun _ => rfl
    refine post_check fun _ => post_check fun _ => post_check fun _ => post_check fun _ => ?_
    exact post_bind (fun _ hu => arm_buf hu) fun _ hu => post_pure hu
  | tmStop _ =>
    refine KeepsBuf.storesByRule (keepsBuf_of_post (fun _ => rfl) fun s => ?_) fun _ => rfl
    exact post_check fun _ => post_ite (post_pure rfl) (post_pure rfl)

/-- However a command ends, it stores only inside its ranges: a failing one stores nothing. -/
theorem exec_stored {i : Instr} {s t : State} (h : exec i s = .next t) : StoredIn (storedRanges i s) s.buf t.buf := by
  rcases exec_ends i s t h with ⟨hok, -⟩ | ⟨-, e, rfl⟩
  · exact (exec_storesByRule i s t h hok).stored
  · exact .refl

/-- Settles O23: a failing command has only taken its error (`exec_ends`), and every command's stores lie in its ranges. -/
theorem bufferBytesOutside : Obligations.BufferBytesOutside := by
  unfold Obligations.BufferBytesOutside
  intro i s t h
  have hstored := exec_stored h
  refine ⟨fun hfail => ?_, fun hok => (exec_storesByRule i s t h hok).inWindow, fun x hx => hstored.readByte_outside hx, fun hnone => ?_⟩
  · rcases exec_ends i s t h with ⟨hok, -⟩ | ⟨-, e, rfl⟩
    · rw [hok] at hfail
      cases hfail
    · rfl
  · rw [hnone] at hstored
    exact hstored.eq_of_nil

end Sys2Proof.Machine
end

section
/-! SUPPORT. The canonical form of `BUF` (assumption log 3) under one transaction of the host (R342): a read and a write of a CSR store at
most one byte, a command stores inside its ranges, and the reset transaction empties the list of written bytes. -/

namespace Sys2Proof.Machine

@[simp] theorem csrRead_buf (n : CsrNumber) (s : State) : (csrRead n s).2.buf = s.buf :=
  iteInduction (motive := fun u : State => u.buf = s.buf) (fun _ => rfl) (fun _ => rfl)

theorem csrWrite_bufData (v : Reg) (s : State) : csrWrite csrBufData v s = writeBufData v s := rfl

theorem csrWrite_wf (n : CsrNumber) (v : Reg) (s : State) (h : s.buf.wf = true) : (csrWrite n v s).buf.wf = true := by
  by_cases hn : n = csrBufData
  · rw [hn, csrWrite_bufData]
    exact writeByte_wf _ _ _ h
  · rw [(csrWrite_keeps n v s).buf hn]
    exact h

theorem exec_wf {i : Instr} {s t : State} (h : exec i s = .next t) (hwf : s.buf.wf = true) : t.buf.wf = true := (exec_stored h).wf hwf

/-- `wr CMD` ends with `E_ILLEGAL`, or with the decoded command's next state; then the word is latched. -/
theorem runWord_next {w : CommandWord} {s t : State} (h : runWord w s = .next t) :
    (decode w = none ∧ t = latchCmd w (takeError .illegal s)) ∨ ∃ i u, decode w = some i ∧ exec i s = .next u ∧ t = latchCmd w u := by
  cases hdec : decode w with
  | none =>
    simp only [runWord, hdec, Host.Outcome.next.injEq] at h
    exact .inl ⟨rfl, h.symm⟩
  | some i =>
    obtain ⟨u, hu⟩ := exec_next i s
    rw [runWord_of_decode hdec, hu] at h
    exact .inr ⟨i, u, rfl, hu, (Host.Outcome.next.inj h).symm⟩

theorem runWord_wf {w : CommandWord} {s t : State} (h : runWord w s = .next t) (hwf : s.buf.wf = true) : t.buf.wf = true := by
  rcases runWord_next h with ⟨-, rfl⟩ | ⟨i, u, -, hu, rfl⟩
  · rw [latchCmd_buf, takeError_buf]
    exact hwf
  · rw [latchCmd_buf]
    exact exec_wf hu hwf

theorem transact_wf {x : Txn} {s t : State} (h : transact x s = .next t) (hwf : s.buf.wf = true) : t.buf.wf = true := by
  cases x with
  | rd n =>
    obtain rfl := Host.Outcome.next.inj h
    exact (congrArg Memory.wf (csrRead_buf n s)).trans hwf
  | wr n v =>
    by_cases hn : n = csrCmd
    · rw [transact, if_pos hn] at h
      exact runWord_wf h hwf
    · rw [transact, if_neg hn] at h
      obtain rfl := Host.Outcome.next.inj h
      exact csrWrite_wf n v s hwf
  | reset =>
    obtain rfl := Host.Outcome.next.inj h
    exact empty_wf _

/-- Settles O21: with no transaction pending nothing changes, and every transaction keeps the form. -/
theorem canonicalMemoryKept : Obligations.CanonicalMemoryKept := by
  unfold Obligations.CanonicalMemoryKept
  intro s t hwf hstep
  cases hpending : s.inputs.pending with
  | nil =>
    simp only [step, stepMachine, hpending, Host.Outcome.next.injEq] at hstep
    exact hstep ▸ hwf
  | cons x rest =>
    rw [step_of_next hpending] at hstep
    exact transact_wf hstep hwf

end Sys2Proof.Machine
end

section
/-! SUPPORT. The formats of the command word (R100 to R102): the commands each of them makes, with the fields it makes
them of. Each law reads the format's definition through the laws of its parts; `grind` then only sorts the conjunction. -/

namespace Sys2Proof

/-- The values of a kind fit its 4-bit field (R101). -/
theorem Kind.two_pow_bits_le (k : Kind) : 2 ^ k.bits ≤ 16 := by
  cases k <;> decide

theorem index_eq_some_field {n : Nat} (hn : n ≤ 16) (v : BitVec 4) (x : Fin n) : index n v = some x ↔ v = field x := by
  rw [index_eq_some, ← BitVec.toNat_inj, field, BitVec.toNat_ofNat, Nat.mod_eq_of_lt (Nat.lt_of_lt_of_le x.isLt hn)]

theorem index_eq_some_immTi (v : BitVec 12) (x : TiReg) : index 8 v = some x ↔ v = immTi x := by
  rw [index_eq_some, ← BitVec.toNat_inj, immTi, BitVec.toNat_ofNat, Nat.mod_eq_of_lt (Nat.lt_trans x.isLt (by decide))]

theorem eq_zero_iff_toNat {w : Nat} (v : BitVec w) : v = 0 ↔ v.toNat = 0 := BitVec.toNat_inj.symm

theorem extract_high_toNat (v : BitVec 12) : (v.extractLsb' 8 4).toNat = v.toNat / 256 := by
  have hv := v.isLt
  rw [BitVec.extractLsb'_toNat, Nat.shiftRight_eq_div_pow]
  omega

/-- `imm[11:8]` is zero exactly when `imm` is an 8-bit number (R102). -/
theorem extract_high_eq_zero_iff (v : BitVec 12) : v.extractLsb' 8 4 = 0 ↔ v.toNat < 2 ^ 8 := by
  rw [eq_zero_iff_toNat, extract_high_toNat]
  omega

/-- `imm` is a number of `imm[7:0]` exactly when `imm[11:8]` is zero (R102). -/
theorem eq_setWidth_iff (v : BitVec 12) (m : BitVec 8) : v = m.setWidth 12 ↔ v.extractLsb' 8 4 = 0 ∧ v.extractLsb' 0 8 = m := by
  have hm := m.isLt
  rw [extract_high_eq_zero_iff, ← BitVec.toNat_inj, ← BitVec.toNat_inj, BitVec.extractLsb'_toNat, BitVec.toNat_setWidth,
    Nat.shiftRight_zero]
  omega

section
variable {m n k : Nat} {f : Fields} {i : Instr}

theorem fmtZ_eq_some {mk : Instr} :
    fmtZ mk f = some i ↔ f = ⟨f.op, 0, 0, 0, 0⟩ ∧ i = mk := by
  obtain ⟨op, a, b, c, imm⟩ := f
  simp only [fmtZ, provided_eq_some, Bool.and_eq_true, beq_iff_eq, Fields.mk.injEq]
  grind

theorem fmtA_eq_some {mk : Fin m → Instr} (hm : m ≤ 16 := by decide) :
    fmtA m mk f = some i ↔ ∃ x, f = ⟨f.op, field x, 0, 0, 0⟩ ∧ i = mk x := by
  obtain ⟨op, a, b, c, imm⟩ := f
  simp only [fmtA, provided_eq_some, Option.map_eq_some_iff, index_eq_some_field hm, Bool.and_eq_true, beq_iff_eq, Fields.mk.injEq]
  grind

theorem fmtB_eq_some {mk : Fin m → Instr} (hm : m ≤ 16 := by decide) :
    fmtB m mk f = some i ↔ ∃ x, f = ⟨f.op, 0, field x, 0, 0⟩ ∧ i = mk x := by
  obtain ⟨op, a, b, c, imm⟩ := f
  simp only [fmtB, provided_eq_some, Option.map_eq_some_iff, index_eq_some_field hm, Bool.and_eq_true, beq_iff_eq, Fields.mk.injEq]
  grind

theorem fmtC_eq_some {mk : Fin m → Instr} (hm : m ≤ 16 := by decide) :
    fmtC m mk f = some i ↔ ∃ x, f = ⟨f.op, 0, 0, field x, 0⟩ ∧ i = mk x := by
  obtain ⟨op, a, b, c, imm⟩ := f
  simp only [fmtC, provided_eq_some, Option.map_eq_some_iff, index_eq_some_field hm, Bool.and_eq_true, beq_iff_eq, Fields.mk.injEq]
  grind

theorem fmtAB_eq_some {mk : Fin m → Fin n → Instr} (hm : m ≤ 16 := by decide) (hn : n ≤ 16 := by decide) :
    fmtAB m n mk f = some i ↔ ∃ x y, f = ⟨f.op, field x, field y, 0, 0⟩ ∧ i = mk x y := by
  obtain ⟨op, a, b, c, imm⟩ := f
  simp only [fmtAB, provided_eq_some, Option.bind_eq_some_iff, Option.map_eq_some_iff, index_eq_some_field hm,
    index_eq_some_field hn, Bool.and_eq_true, beq_iff_eq, Fields.mk.injEq]
  grind

theorem fmtBC_eq_some {mk : Fin m → Fin n → Instr} (hm : m ≤ 16 := by decide) (hn : n ≤ 16 := by decide) :
    fmtBC m n mk f = some i ↔ ∃ x y, f = ⟨f.op, 0, field x, field y, 0⟩ ∧ i = mk x y := by
  obtain ⟨op, a, b, c, imm⟩ := f
  simp only [fmtBC, provided_eq_some, Option.bind_eq_some_iff, Option.map_eq_some_iff, index_eq_some_field hm,
    index_eq_some_field hn, Bool.and_eq_true, beq_iff_eq, Fields.mk.injEq]
  grind

theorem fmtAC_eq_some {mk : Fin m → Fin n → Instr} (hm : m ≤ 16 := by decide) (hn : n ≤ 16 := by decide) :
    fmtAC m n mk f = some i ↔ ∃ x y, f = ⟨f.op, field x, 0, field y, 0⟩ ∧ i = mk x y := by
  obtain ⟨op, a, b, c, imm⟩ := f
  simp only [fmtAC, provided_eq_some, Option.bind_eq_some_iff, Option.map_eq_some_iff, index_eq_some_field hm,
    index_eq_some_field hn, Bool.and_eq_true, beq_iff_eq, Fields.mk.injEq]
  grind

theorem fmtABC_eq_some {mk : Fin m → Fin n → Fin k → Instr} (hm : m ≤ 16 := by decide) (hn : n ≤ 16 := by decide)
    (hk : k ≤ 16 := by decide) :
    fmtABC m n k mk f = some i ↔ ∃ x y z, f = ⟨f.op, field x, field y, field z, 0⟩ ∧ i = mk x y z := by
  obtain ⟨op, a, b, c, imm⟩ := f
  simp only [fmtABC, provided_eq_some, Option.bind_eq_some_iff, Option.map_eq_some_iff, index_eq_some_field hm,
    index_eq_some_field hn, index_eq_some_field hk, beq_iff_eq, Fields.mk.injEq]
  grind

theorem fmtABI12_eq_some {mk : Fin m → Fin n → BitVec 12 → Instr} (hm : m ≤ 16 := by decide) (hn : n ≤ 16 := by decide) :
    fmtABI12 m n mk f = some i ↔ ∃ x y v, f = ⟨f.op, field x, field y, 0, v⟩ ∧ i = mk x y v := by
  obtain ⟨op, a, b, c, imm⟩ := f
  simp only [fmtABI12, provided_eq_some, Option.bind_eq_some_iff, Option.map_eq_some_iff, index_eq_some_field hm,
    index_eq_some_field hn, beq_iff_eq, Fields.mk.injEq]
  grind

theorem fmtABCI3_eq_some {mk : Fin m → Fin n → Fin k → TiReg → Instr} (hm : m ≤ 16 := by decide) (hn : n ≤ 16 := by decide)
    (hk : k ≤ 16 := by decide) :
    fmtABCI3 m n k mk f = some i ↔ ∃ x y z t, f = ⟨f.op, field x, field y, field z, immTi t⟩ ∧ i = mk x y z t := by
  obtain ⟨op, a, b, c, imm⟩ := f
  simp only [fmtABCI3, Option.bind_eq_some_iff, Option.map_eq_some_iff, index_eq_some_field hm, index_eq_some_field hn,
    index_eq_some_field hk, index_eq_some_immTi, Fields.mk.injEq]
  grind

theorem fmtAI8_eq_some {mk : Fin m → BitVec 8 → Instr} (hm : m ≤ 16 := by decide) :
    fmtAI8 m mk f = some i ↔ ∃ x v, f = ⟨f.op, field x, 0, 0, v.setWidth 12⟩ ∧ i = mk x v := by
  obtain ⟨op, a, b, c, imm⟩ := f
  simp only [fmtAI8, provided_eq_some, Option.map_eq_some_iff, index_eq_some_field hm, eq_setWidth_iff, Bool.and_eq_true,
    beq_iff_eq, Fields.mk.injEq]
  grind

theorem fmtBI8_eq_some {mk : Fin m → BitVec 8 → Instr} (hm : m ≤ 16 := by decide) :
    fmtBI8 m mk f = some i ↔ ∃ x v, f = ⟨f.op, 0, field x, 0, v.setWidth 12⟩ ∧ i = mk x v := by
  obtain ⟨op, a, b, c, imm⟩ := f
  simp only [fmtBI8, provided_eq_some, Option.map_eq_some_iff, index_eq_some_field hm, eq_setWidth_iff, Bool.and_eq_true,
    beq_iff_eq, Fields.mk.injEq]
  grind

end

end Sys2Proof
end

section
/-! SUPPORT. Decoding by the rows of R104: a row's arm of the decoder takes exactly the fields that are legal for the row (R103). -/

namespace Sys2Proof

/-- What the decoder's arm for a row of R104 answers on a word's fields: it takes the legal ones and no others, and answers the command
whose fields they are. -/
structure RowDecodes (r : OpRow) (f : Fields) (o : Option Instr) : Prop where
  legal : o.isSome = true ↔ Laws.fieldsLegal r f
  encodes : ∀ i, o = some i → encodeFields i = f

/-! When the parts of a format answer a value. -/

theorem provided_isSome (c : Bool) (o : Option Instr) : (provided c o).isSome = true ↔ c = true ∧ o.isSome = true := by
  cases c <;> simp [provided]

theorem index_isSome {n w : Nat} (v : BitVec w) : (index n v).isSome = true ↔ v.toNat < n := by
  by_cases h : v.toNat < n <;> simp [index, h]

theorem index_bind_isSome {n w : Nat} {α : Type} (v : BitVec w) (g : Fin n → Option α) :
    ((index n v).bind g).isSome = true ↔ ∃ h : v.toNat < n, (g ⟨v.toNat, h⟩).isSome = true := by
  by_cases h : v.toNat < n <;> simp [index, h]

theorem toNat_lt_one_iff {w : Nat} (v : BitVec w) : v.toNat < 2 ^ 0 ↔ v = 0 := by
  rw [eq_zero_iff_toNat]
  omega

section
variable {op : BitVec 8} {ka kb kc : Kind} {f : Fields}

theorem fmtZ_row {mk : Instr} (hop : f.op = op) (hmk : encodeFields mk = ⟨op, 0, 0, 0, 0⟩) :
    RowDecodes ⟨op, none, none, none, .unused⟩ f (fmtZ mk f) where
  legal := by
    simp only [fmtZ, provided_isSome, toNat_lt_one_iff, Option.isSome_some, Bool.and_eq_true, beq_iff_eq, Laws.fieldsLegal,
      Laws.fieldLegal, ImmUse.bits, hop]
    tauto
  encodes i h := by
    obtain ⟨hf, rfl⟩ := fmtZ_eq_some.1 h
    rw [hmk, ← hop, ← hf]

theorem fmtA_row {mk : Fin (2 ^ ka.bits) → Instr} (hop : f.op = op) (hmk : ∀ x, encodeFields (mk x) = ⟨op, field x, 0, 0, 0⟩) :
    RowDecodes ⟨op, some ka, none, none, .unused⟩ f (fmtA (2 ^ ka.bits) mk f) where
  legal := by
    simp only [fmtA, provided_isSome, Option.isSome_map, index_isSome, toNat_lt_one_iff, Bool.and_eq_true, beq_iff_eq,
      Laws.fieldsLegal, Laws.fieldLegal, ImmUse.bits, hop]
    tauto
  encodes i h := by
    obtain ⟨x, hf, rfl⟩ := (fmtA_eq_some ka.two_pow_bits_le).1 h
    rw [hmk, ← hop, ← hf]

theorem fmtB_row {mk : Fin (2 ^ kb.bits) → Instr} (hop : f.op = op) (hmk : ∀ x, encodeFields (mk x) = ⟨op, 0, field x, 0, 0⟩) :
    RowDecodes ⟨op, none, some kb, none, .unused⟩ f (fmtB (2 ^ kb.bits) mk f) where
  legal := by
    simp only [fmtB, provided_isSome, Option.isSome_map, index_isSome, toNat_lt_one_iff, Bool.and_eq_true, beq_iff_eq,
      Laws.fieldsLegal, Laws.fieldLegal, ImmUse.bits, hop]
    tauto
  encodes i h := by
    obtain ⟨x, hf, rfl⟩ := (fmtB_eq_some kb.two_pow_bits_le).1 h
    rw [hmk, ← hop, ← hf]

theorem fmtC_row {mk : Fin (2 ^ kc.bits) → Instr} (hop : f.op = op) (hmk : ∀ x, encodeFields (mk x) = ⟨op, 0, 0, field x, 0⟩) :
    RowDecodes ⟨op, none, none, some kc, .unused⟩ f (fmtC (2 ^ kc.bits) mk f) where
  legal := by
    simp only [fmtC, provided_isSome, Option.isSome_map, index_isSome, toNat_lt_one_iff, Bool.and_eq_true, beq_iff_eq,
      Laws.fieldsLegal, Laws.fieldLegal, ImmUse.bits, hop]
    tauto
  encodes i h := by
    obtain ⟨x, hf, rfl⟩ := (fmtC_eq_some kc.two_pow_bits_le).1 h
    rw [hmk, ← hop, ← hf]

theorem fmtAB_row {mk : Fin (2 ^ ka.bits) → Fin (2 ^ kb.bits) → Instr} (hop : f.op = op)
    (hmk : ∀ x y, encodeFields (mk x y) = ⟨op, field x, field y, 0, 0⟩) :
    RowDecodes ⟨op, some ka, some kb, none, .unused⟩ f (fmtAB (2 ^ ka.bits) (2 ^ kb.bits) mk f) where
  legal := by
    simp only [fmtAB, provided_isSome, index_bind_isSome, Option.isSome_map, index_isSome, toNat_lt_one_iff, exists_prop,
      Bool.and_eq_true, beq_iff_eq, Laws.fieldsLegal, Laws.fieldLegal, ImmUse.bits, hop]
    tauto
  encodes i h := by
    obtain ⟨x, y, hf, rfl⟩ := (fmtAB_eq_some ka.two_pow_bits_le kb.two_pow_bits_le).1 h
    rw [hmk, ← hop, ← hf]

theorem fmtBC_row {mk : Fin (2 ^ kb.bits) → Fin (2 ^ kc.bits) → Instr} (hop : f.op = op)
    (hmk : ∀ x y, encodeFields (mk x y) = ⟨op, 0, field x, field y, 0⟩) :
    RowDecodes ⟨op, none, some kb, some kc, .unused⟩ f (fmtBC (2 ^ kb.bits) (2 ^ kc.bits) mk f) where
  legal := by
    simp only [fmtBC, provided_isSome, index_bind_isSome, Option.isSome_map, index_isSome, toNat_lt_one_iff, exists_prop,
      Bool.and_eq_true, beq_iff_eq, Laws.fieldsLegal, Laws.fieldLegal, ImmUse.bits, hop]
    tauto
  encodes i h := by
    obtain ⟨x, y, hf, rfl⟩ := (fmtBC_eq_some kb.two_pow_bits_le kc.two_pow_bits_le).1 h
    rw [hmk, ← hop, ← hf]

theorem fmtAC_row {mk : Fin (2 ^ ka.bits) → Fin (2 ^ kc.bits) → Instr} (hop : f.op = op)
    (hmk : ∀ x y, encodeFields (mk x y) = ⟨op, field x, 0, field y, 0⟩) :
    RowDecodes ⟨op, some ka, none, some kc, .unused⟩ f (fmtAC (2 ^ ka.bits) (2 ^ kc.bits) mk f) where
  legal := by
    simp only [fmtAC, provided_isSome, index_bind_isSome, Option.isSome_map, index_isSome, toNat_lt_one_iff, exists_prop,
      Bool.and_eq_true, beq_iff_eq, Laws.fieldsLegal, Laws.fieldLegal, ImmUse.bits, hop]
    tauto
  encodes i h := by
    obtain ⟨x, y, hf, rfl⟩ := (fmtAC_eq_some ka.two_pow_bits_le kc.two_pow_bits_le).1 h
    rw [hmk, ← hop, ← hf]

theorem fmtABC_row {mk : Fin (2 ^ ka.bits) → Fin (2 ^ kb.bits) → Fin (2 ^ kc.bits) → Instr} (hop : f.op = op)
    (hmk : ∀ x y z, encodeFields (mk x y z) = ⟨op, field x, field y, field z, 0⟩) :
    RowDecodes ⟨op, some ka, some kb, some kc, .unused⟩ f (fmtABC (2 ^ ka.bits) (2 ^ kb.bits) (2 ^ kc.bits) mk f) where
  legal := by
    simp only [fmtABC, provided_isSome, index_bind_isSome, Option.isSome_map, index_isSome, toNat_lt_one_iff, exists_prop,
      beq_iff_eq, Laws.fieldsLegal, Laws.fieldLegal, ImmUse.bits, hop]
    tauto
  encodes i h := by
    obtain ⟨x, y, z, hf, rfl⟩ := (fmtABC_eq_some ka.two_pow_bits_le kb.two_pow_bits_le kc.two_pow_bits_le).1 h
    rw [hmk, ← hop, ← hf]

theorem fmtABI12_row {mk : Fin (2 ^ ka.bits) → Fin (2 ^ kb.bits) → BitVec 12 → Instr} (hop : f.op = op)
    (hmk : ∀ x y v, encodeFields (mk x y v) = ⟨op, field x, field y, 0, v⟩) :
    RowDecodes ⟨op, some ka, some kb, none, .imm12⟩ f (fmtABI12 (2 ^ ka.bits) (2 ^ kb.bits) mk f) where
  legal := by
    simp only [fmtABI12, provided_isSome, index_bind_isSome, Option.isSome_map, index_isSome, exists_prop, beq_iff_eq, BitVec.isLt,
      and_true, Laws.fieldsLegal, Laws.fieldLegal, ImmUse.bits, hop]
    tauto
  encodes i h := by
    obtain ⟨x, y, v, hf, rfl⟩ := (fmtABI12_eq_some ka.two_pow_bits_le kb.two_pow_bits_le).1 h
    rw [hmk, ← hop, ← hf]

theorem fmtABCI3_row {mk : Fin (2 ^ ka.bits) → Fin (2 ^ kb.bits) → Fin (2 ^ kc.bits) → TiReg → Instr} (hop : f.op = op)
    (hmk : ∀ x y z t, encodeFields (mk x y z t) = ⟨op, field x, field y, field z, immTi t⟩) :
    RowDecodes ⟨op, some ka, some kb, some kc, .ti3⟩ f (fmtABCI3 (2 ^ ka.bits) (2 ^ kb.bits) (2 ^ kc.bits) mk f) where
  legal := by
    simp only [fmtABCI3, index_bind_isSome, Option.isSome_map, index_isSome, exists_prop, Nat.reducePow, Laws.fieldsLegal,
      Laws.fieldLegal, ImmUse.bits, hop]
    tauto
  encodes i h := by
    obtain ⟨x, y, z, t, hf, rfl⟩ := (fmtABCI3_eq_some ka.two_pow_bits_le kb.two_pow_bits_le kc.two_pow_bits_le).1 h
    rw [hmk, ← hop, ← hf]

theorem fmtAI8_row {mk : Fin (2 ^ ka.bits) → BitVec 8 → Instr} (hop : f.op = op)
    (hmk : ∀ x v, encodeFields (mk x v) = ⟨op, field x, 0, 0, v.setWidth 12⟩) :
    RowDecodes ⟨op, some ka, none, none, .imm8⟩ f (fmtAI8 (2 ^ ka.bits) mk f) where
  legal := by
    simp only [fmtAI8, provided_isSome, Option.isSome_map, index_isSome, extract_high_eq_zero_iff, Bool.and_eq_true, beq_iff_eq,
      Laws.fieldsLegal, Laws.fieldLegal, ImmUse.bits, hop]
    tauto
  encodes i h := by
    obtain ⟨x, v, hf, rfl⟩ := (fmtAI8_eq_some ka.two_pow_bits_le).1 h
    rw [hmk, ← hop, ← hf]

theorem fmtBI8_row {mk : Fin (2 ^ kb.bits) → BitVec 8 → Instr} (hop : f.op = op)
    (hmk : ∀ x v, encodeFields (mk x v) = ⟨op, 0, field x, 0, v.setWidth 12⟩) :
    RowDecodes ⟨op, none, some kb, none, .imm8⟩ f (fmtBI8 (2 ^ kb.bits) mk f) where
  legal := by
    simp only [fmtBI8, provided_isSome, Option.isSome_map, index_isSome, extract_high_eq_zero_iff, Bool.and_eq_true, beq_iff_eq,
      Laws.fieldsLegal, Laws.fieldLegal, ImmUse.bits, hop]
    tauto
  encodes i h := by
    obtain ⟨x, v, hf, rfl⟩ := (fmtBI8_eq_some kb.two_pow_bits_le).1 h
    rw [hmk, ← hop, ← hf]

end

/-- A flag operand is encoded as the number of R101: 1 for set, 0 for clear. -/
theorem encodeFields_tmStart (t : TmrId) (a : TiReg) (r : Fin 2) :
    encodeFields (.tmStart t a (r == 1)) = ⟨0x61, field t, field a, field r, 0⟩ := by
  match r with
  | 0 => rfl
  | 1 => rfl

/-! The rows of R104 in the order of the model's tables: which format a row's arm has, and that its command encodes to that row. -/

theorem tableTimeValue_rowDecodes (f : Fields) : ∀ r ∈ tableTimeValue, f.op = r.op → RowDecodes r f (decodeFields f) := by
  obtain ⟨op, a, b, c, imm⟩ := f
  simp only [tableTimeValue, List.forall_mem_cons, List.not_mem_nil, false_imp_iff, implies_true, and_true]
  refine ⟨?_, ?_, ?_, ?_, ?_, ?_, ?_, ?_, ?_, ?_, ?_, ?_, ?_, ?_, ?_, ?_⟩ <;> rintro rfl
  · exact fmtZ_row rfl rfl -- nop
  · exact fmtAB_row rfl fun _ _ => rfl -- tiMov
  · exact fmtABC_row rfl fun _ _ _ => rfl -- tiAdd
  · exact fmtABC_row rfl fun _ _ _ => rfl -- tiSub
  · exact fmtAB_row rfl fun _ _ => rfl -- tiNeg
  · exact fmtAB_row rfl fun _ _ => rfl -- tiAbs
  · exact fmtAB_row rfl fun _ _ => rfl -- tiHalf
  · exact fmtAB_row rfl fun _ _ => rfl -- tiFromNs
  · exact fmtAB_row rfl fun _ _ => rfl -- tiToNs
  · exact fmtBC_row rfl fun _ _ => rfl -- tiCmp
  · exact fmtABI12_row rfl fun _ _ _ => rfl -- tiMulI
  · exact fmtABI12_row rfl fun _ _ _ => rfl -- tiDivI
  · exact fmtAB_row rfl fun _ _ => rfl -- tsMov
  · exact fmtABC_row rfl fun _ _ _ => rfl -- tsSub
  · exact fmtABC_row rfl fun _ _ _ => rfl -- tsAddI
  · exact fmtABCI3_row rfl fun _ _ _ _ => rfl -- tsDiffC

theorem tableFilterServo_rowDecodes (f : Fields) : ∀ r ∈ tableFilterServo, f.op = r.op → RowDecodes r f (decodeFields f) := by
  obtain ⟨op, a, b, c, imm⟩ := f
  simp only [tableFilterServo, List.forall_mem_cons, List.not_mem_nil, false_imp_iff, implies_true, and_true]
  refine ⟨?_, ?_, ?_, ?_, ?_, ?_, ?_, ?_, ?_⟩ <;> rintro rfl
  · exact fmtAB_row rfl fun _ _ => rfl -- fltReset
  · exact fmtABCI3_row rfl fun _ _ _ _ => rfl -- fltStep
  · exact fmtA_row rfl fun _ => rfl -- svReset
  · exact fmtABCI3_row rfl fun _ _ _ _ => rfl -- svDelay
  · exact fmtABCI3_row rfl fun _ _ _ _ => rfl -- svOffset
  · exact fmtABC_row rfl fun _ _ _ => rfl -- svPid
  · exact fmtZ_row rfl rfl -- svSwitch
  · exact fmtA_row rfl fun _ => rfl -- svLost
  · exact fmtA_row rfl fun _ => rfl -- svStat

theorem tableCodec_rowDecodes (f : Fields) : ∀ r ∈ tableCodec, f.op = r.op → RowDecodes r f (decodeFields f) := by
  obtain ⟨op, a, b, c, imm⟩ := f
  simp only [tableCodec, List.forall_mem_cons, List.not_mem_nil, false_imp_iff, implies_true, and_true]
  refine ⟨?_, ?_, ?_, ?_, ?_, ?_, ?_, ?_, ?_, ?_, ?_, ?_⟩ <;> rintro rfl
  · exact fmtZ_row rfl rfl -- pkHdr
  · exact fmtZ_row rfl rfl -- upHdr
  · exact fmtB_row rfl fun _ => rfl -- pkTs
  · exact fmtA_row rfl fun _ => rfl -- upTs
  · exact fmtBC_row rfl fun _ _ => rfl -- pkPd
  · exact fmtAC_row rfl fun _ _ => rfl -- upPd
  · exact fmtB_row rfl fun _ => rfl -- pkAnn
  · exact fmtA_row rfl fun _ => rfl -- upAnn
  · exact fmtC_row rfl fun _ => rfl -- pkSig
  · exact fmtC_row rfl fun _ => rfl -- upSig
  · exact fmtZ_row rfl rfl -- pkTlv
  · exact fmtZ_row rfl rfl -- upTlv

theorem tablePortTimer_rowDecodes (f : Fields) : ∀ r ∈ tablePortTimer, f.op = r.op → RowDecodes r f (decodeFields f) := by
  obtain ⟨op, a, b, c, imm⟩ := f
  simp only [tablePortTimer, List.forall_mem_cons, List.not_mem_nil, false_imp_iff, implies_true, and_true]
  refine ⟨?_, ?_, ?_, ?_, ?_, ?_, ?_, ?_, ?_, ?_⟩ <;> rintro rfl
  · exact fmtBI8_row rfl fun _ _ => rfl -- ccFreq
  · exact fmtBI8_row rfl fun _ _ => rfl -- ccSetTime
  · exact fmtBI8_row rfl fun _ _ => rfl -- ccDelta
  · exact fmtBI8_row rfl fun _ _ => rfl -- ccPhase
  · exact fmtAI8_row rfl fun _ _ => rfl -- ccGetTime
  · exact fmtAI8_row rfl fun _ _ => rfl -- tmInit
  · exact fmtABC_row rfl encodeFields_tmStart -- tmStart
  · exact fmtA_row rfl fun _ => rfl -- tmStop
  · exact fmtB_row rfl fun _ => rfl -- tmTick
  · exact fmtZ_row rfl rfl -- sysReset

/-- The decoder's arm for the opcode of a row of R104 is that row's. -/
theorem decodeFields_rowDecodes (f : Fields) (r : OpRow) (hr : r ∈ opTable)
    (hop : f.op = r.op) : RowDecodes r f (decodeFields f) := by
  simp only [opTable, List.mem_append] at hr
  rcases hr with ((hr | hr) | hr) | hr
  · exact tableTimeValue_rowDecodes f r hr hop
  · exact tableFilterServo_rowDecodes f r hr hop
  · exact tableCodec_rowDecodes f r hr hop
  · exact tablePortTimer_rowDecodes f r hr hop

/-- Only an opcode of R104 decodes: the others are reserved (R103). -/
theorem op_mem_of_decodeFields {f : Fields} (h : (decodeFields f).isSome = true) : ∃ r ∈ opTable, f.op = r.op := by
  have hop : f.op.toNat ∈ opTable.map fun r => r.op.toNat := by
    unfold decodeFields at h
    generalize f.op.toNat = n at h ⊢
    split at h
    case h_48 => cases h
    all_goals decide
  obtain ⟨r, hr, h⟩ := List.mem_map.1 hop
  exact ⟨r, hr, (BitVec.eq_of_toNat_eq h).symm⟩

/-- The fields that decode are those that are legal for a row of R104. -/
theorem decodeFields_isSome_iff (f : Fields) : (decodeFields f).isSome = true ↔ ∃ r ∈ opTable, Laws.fieldsLegal r f := by
  constructor
  · intro h
    obtain ⟨r, hr, hop⟩ := op_mem_of_decodeFields h
    exact ⟨r, hr, (decodeFields_rowDecodes f r hr hop).legal.1 h⟩
  · rintro ⟨r, hr, hlegal⟩
    exact (decodeFields_rowDecodes f r hr hlegal.1).legal.2 hlegal

/-- Fields that decode are those of the command they decode to. -/
theorem encodeFields_of_decodeFields {f : Fields} {i : Instr} (h : decodeFields f = some i) : encodeFields i = f := by
  obtain ⟨r, hr, hop⟩ := op_mem_of_decodeFields (Option.isSome_iff_exists.2 ⟨i, h⟩)
  exact (decodeFields_rowDecodes f r hr hop).encodes i h

/-- The fields of every command decode to it. -/
theorem decodeFields_encodeFields (i : Instr) : decodeFields (encodeFields i) = some i := by
  cases i with
  | nop => exact fmtZ_eq_some.2 ⟨rfl, rfl⟩
  | tiMov d a => exact (fmtAB_eq_some).2 ⟨d, a, rfl, rfl⟩
  | tiAdd d a b => exact (fmtABC_eq_some).2 ⟨d, a, b, rfl, rfl⟩
  | tiSub d a b => exact (fmtABC_eq_some).2 ⟨d, a, b, rfl, rfl⟩
  | tiNeg d a => exact (fmtAB_eq_some).2 ⟨d, a, rfl, rfl⟩
  | tiAbs d a => exact (fmtAB_eq_some).2 ⟨d, a, rfl, rfl⟩
  | tiHalf d a => exact (fmtAB_eq_some).2 ⟨d, a, rfl, rfl⟩
  | tiFromNs d a => exact (fmtAB_eq_some).2 ⟨d, a, rfl, rfl⟩
  | tiToNs d a => exact (fmtAB_eq_some).2 ⟨d, a, rfl, rfl⟩
  | tiCmp a b => exact (fmtBC_eq_some).2 ⟨a, b, rfl, rfl⟩
  | tiMulI d a i => exact (fmtABI12_eq_some).2 ⟨d, a, i, rfl, rfl⟩
  | tiDivI d a i => exact (fmtABI12_eq_some).2 ⟨d, a, i, rfl, rfl⟩
  | tsMov d a => exact (fmtAB_eq_some).2 ⟨d, a, rfl, rfl⟩
  | tsSub d a b => exact (fmtABC_eq_some).2 ⟨d, a, b, rfl, rfl⟩
  | tsAddI d a v => exact (fmtABC_eq_some).2 ⟨d, a, v, rfl, rfl⟩
  | tsDiffC d a b c => exact (fmtABCI3_eq_some).2 ⟨d, a, b, c, rfl, rfl⟩
  | fltReset x y => exact (fmtAB_eq_some).2 ⟨x, y, rfl, rfl⟩
  | fltStep x y a d => exact (fmtABCI3_eq_some).2 ⟨x, y, a, d, rfl, rfl⟩
  | svReset x => exact (fmtA_eq_some).2 ⟨x, rfl, rfl⟩
  | svDelay x a b c => exact (fmtABCI3_eq_some).2 ⟨x, a, b, c, rfl, rfl⟩
  | svOffset x a b c => exact (fmtABCI3_eq_some).2 ⟨x, a, b, c, rfl, rfl⟩
  | svPid x o n => exact (fmtABC_eq_some).2 ⟨x, o, n, rfl, rfl⟩
  | svSwitch => exact fmtZ_eq_some.2 ⟨rfl, rfl⟩
  | svLost x => exact (fmtA_eq_some).2 ⟨x, rfl, rfl⟩
  | svStat x => exact (fmtA_eq_some).2 ⟨x, rfl, rfl⟩
  | pkHdr => exact fmtZ_eq_some.2 ⟨rfl, rfl⟩
  | upHdr => exact fmtZ_eq_some.2 ⟨rfl, rfl⟩
  | pkTs a => exact (fmtB_eq_some).2 ⟨a, rfl, rfl⟩
  | upTs d => exact (fmtA_eq_some).2 ⟨d, rfl, rfl⟩
  | pkPd a p => exact (fmtBC_eq_some).2 ⟨a, p, rfl, rfl⟩
  | upPd d p => exact (fmtAC_eq_some).2 ⟨d, p, rfl, rfl⟩
  | pkAnn a => exact (fmtB_eq_some).2 ⟨a, rfl, rfl⟩
  | upAnn d => exact (fmtA_eq_some).2 ⟨d, rfl, rfl⟩
  | pkSig p => exact (fmtC_eq_some).2 ⟨p, rfl, rfl⟩
  | upSig p => exact (fmtC_eq_some).2 ⟨p, rfl, rfl⟩
  | pkTlv => exact fmtZ_eq_some.2 ⟨rfl, rfl⟩
  | upTlv => exact fmtZ_eq_some.2 ⟨rfl, rfl⟩
  | ccFreq a m => exact (fmtBI8_eq_some).2 ⟨a, m, rfl, rfl⟩
  | ccSetTime a m => exact (fmtBI8_eq_some).2 ⟨a, m, rfl, rfl⟩
  | ccDelta a m => exact (fmtBI8_eq_some).2 ⟨a, m, rfl, rfl⟩
  | ccPhase a m => exact (fmtBI8_eq_some).2 ⟨a, m, rfl, rfl⟩
  | ccGetTime d m => exact (fmtAI8_eq_some).2 ⟨d, m, rfl, rfl⟩
  | tmInit t i => exact (fmtAI8_eq_some).2 ⟨t, i, rfl, rfl⟩
  | tmStart t a r => exact (fmtABC_eq_some).2 ⟨t, a, if r then 1 else 0, by cases r <;> rfl, by cases r <;> rfl⟩
  | tmStop t => exact (fmtA_eq_some).2 ⟨t, rfl, rfl⟩
  | tmTick a => exact (fmtB_eq_some).2 ⟨a, rfl, rfl⟩
  | sysReset => exact fmtZ_eq_some.2 ⟨rfl, rfl⟩

/-- Settles O2: a word's fields are those it was put together from, and every command's fields decode to it. -/
theorem decodeOfEncode : Obligations.DecodeOfEncode := by
  unfold Obligations.DecodeOfEncode
  intro i
  rw [decode, encode, fieldsOf_wordOf, decodeFields_encodeFields]

/-- Settles O3. -/
theorem encodeOfDecode : Obligations.EncodeOfDecode := by
  unfold Obligations.EncodeOfDecode
  intro w i h
  rw [encode, encodeFields_of_decodeFields h, wordOf_fieldsOf]

end Sys2Proof
end

section
/-! SUPPORT. The mask and the match of a row of R104, taken apart as command words (R105): a word matches exactly when its fields are legal
for the row (R103). -/

namespace Sys2Proof

theorem and_highBits {w : Nat} (v : BitVec w) (n : Nat) : v &&& ((BitVec.allOnes w >>> n) <<< n) = (v >>> n) <<< n := by
  apply BitVec.eq_of_getLsbD_eq
  intro i hi
  simp only [BitVec.getLsbD_and, BitVec.getLsbD_shiftLeft, BitVec.getLsbD_ushiftRight, BitVec.getLsbD_allOnes]
  by_cases h : i < n
  · simp [h]
  · simp [h, hi, Nat.add_sub_cancel' (Nat.le_of_not_lt h)]

/-- The bits from bit `n` on are zero exactly when the number is below `2 ^ n`. -/
theorem and_highBits_eq_zero_iff {w : Nat} (v : BitVec w) (n : Nat) :
    v &&& ((BitVec.allOnes w >>> n) <<< n) = 0 ↔ v.toNat < 2 ^ n := by
  have hle : v.toNat / 2 ^ n * 2 ^ n < 2 ^ w := Nat.lt_of_le_of_lt (Nat.div_mul_le_self _ _) v.isLt
  rw [and_highBits, eq_zero_iff_toNat, BitVec.toNat_shiftLeft, BitVec.toNat_ushiftRight, Nat.shiftRight_eq_div_pow,
    Nat.shiftLeft_eq, Nat.mod_eq_of_lt hle, Nat.mul_eq_zero, Nat.div_eq_zero_iff]
  simp

/-- The bits of a 4-bit operand field that must be zero: an unused field has no bits in use (R100, R101). -/
def fieldMask (k : Option Kind) : BitVec 4 := (BitVec.allOnes 4 >>> k.elim 0 Kind.bits) <<< k.elim 0 Kind.bits

/-- The bits of `imm` that must be zero (R102). -/
def immMask (u : ImmUse) : BitVec 12 := (BitVec.allOnes 12 >>> u.bits) <<< u.bits

theorem and_fieldMask_eq_zero_iff (k : Option Kind) (v : BitVec 4) : v &&& fieldMask k = 0 ↔ Laws.fieldLegal k v := by
  rw [fieldMask, and_highBits_eq_zero_iff]
  cases k with
  | none => exact toNat_lt_one_iff v
  | some k => rfl

theorem and_immMask_eq_zero_iff (u : ImmUse) (v : BitVec 12) : v &&& immMask u = 0 ↔ v.toNat < 2 ^ u.bits :=
  and_highBits_eq_zero_iff v u.bits

theorem unusedBits_or_rangeBits (k : Option Kind) (sh : Nat) :
    unusedBits sh k ||| rangeBits sh k = (fieldMask k).setWidth 32 <<< sh := by
  rcases k with _ | k
  · exact BitVec.or_zero
  · cases k <;> exact BitVec.zero_or

theorem immBits_eq (u : ImmUse) : (0xFFF#32 >>> u.bits) <<< u.bits = (immMask u).setWidth 32 := by
  cases u <;> rfl

theorem OpRow.mask_eq_wordOf (r : OpRow) :
    r.mask = wordOf ⟨0xFF, fieldMask r.a, fieldMask r.b, fieldMask r.c, immMask r.imm⟩ := by
  have hop : (0xFF : BitVec 8).setWidth 32 <<< 24 = 0xFF000000#32 := rfl
  simp only [OpRow.mask, OpRow.unusedMask, OpRow.rangeMask, wordOf, hop, ← unusedBits_or_rangeBits, ← immBits_eq]
  ac_rfl

theorem OpRow.pattern_eq_wordOf (r : OpRow) : r.pattern = wordOf ⟨r.op, 0, 0, 0, 0⟩ := by
  simp [OpRow.pattern, wordOf]

theorem fieldsOf_injective : Function.Injective fieldsOf := Function.LeftInverse.injective wordOf_fieldsOf

theorem fieldsOf_and (v w : CommandWord) :
    fieldsOf (v &&& w) = ⟨(fieldsOf v).op &&& (fieldsOf w).op, (fieldsOf v).a &&& (fieldsOf w).a, (fieldsOf v).b &&& (fieldsOf w).b,
      (fieldsOf v).c &&& (fieldsOf w).c, (fieldsOf v).imm &&& (fieldsOf w).imm⟩ := by
  simp only [fieldsOf, BitVec.extractLsb'_and]

/-- The procedure of R105 accepts the words whose fields are legal for the row. -/
theorem and_mask_eq_pattern_iff (r : OpRow) (w : CommandWord) : w &&& r.mask = r.pattern ↔ Laws.fieldsLegal r (fieldsOf w) := by
  have hop (v : BitVec 8) : v &&& 0xFF = v := BitVec.and_allOnes
  rw [← fieldsOf_injective.eq_iff, fieldsOf_and, r.mask_eq_wordOf, r.pattern_eq_wordOf, fieldsOf_wordOf, fieldsOf_wordOf]
  simp only [Fields.mk.injEq, hop, and_fieldMask_eq_zero_iff, and_immMask_eq_zero_iff, Laws.fieldsLegal]

/-- The match of a row of R104 lies in the opcode byte, where no unused and no range bit lies. -/
theorem OpRow.pattern_bits {r : OpRow} (hr : r ∈ opTable) :
    r.pattern &&& 0xFF000000#32 = r.pattern ∧ r.pattern &&& r.unusedMask = 0 ∧ r.pattern &&& r.rangeMask = 0 := by
  revert r
  decide

/-- A word matched against a mask of three parts, of which only the first one holds bits of the match. -/
theorem and_or_or_eq_iff {w p x y z : CommandWord} (hx : p &&& x = p) (hy : p &&& y = 0) (hz : p &&& z = 0) :
    w &&& (x ||| y ||| z) = p ↔ (w &&& x = p ∧ w &&& y = 0) ∧ w &&& z = 0 := by
  constructor
  · intro h
    have hpart (n : CommandWord) (hn : (x ||| y ||| z) &&& n = n) : w &&& n = p &&& n := by
      rw [← h, BitVec.and_assoc, hn]
    refine ⟨⟨(hpart x ?_).trans hx, (hpart y ?_).trans hy⟩, (hpart z ?_).trans hz⟩ <;>
    · ext i hi
      grind
  · rintro ⟨⟨hwx, hwy⟩, hwz⟩
    simp [BitVec.and_or_distrib_left, hwx, hwy, hwz]

/-- The three checks of R103 are the procedure of R105. -/
theorem checks_iff_mask {r : OpRow} (hr : r ∈ opTable) (w : CommandWord) :
    (r.opMatches w && r.unusedClear w && r.operandsInRange w) = true ↔ w &&& r.mask = r.pattern := by
  obtain ⟨hop, hunused, hrange⟩ := OpRow.pattern_bits hr
  simp only [OpRow.opMatches, OpRow.unusedClear, OpRow.operandsInRange, Bool.and_eq_true, beq_iff_eq, OpRow.mask,
    and_or_or_eq_iff hop hunused hrange]

theorem wellFormedWord_iff (w : CommandWord) : wellFormedWord w = true ↔ ∃ r ∈ opTable, Laws.fieldsLegal r (fieldsOf w) := by
  simp only [wellFormedWord, List.any_eq_true, ← and_mask_eq_pattern_iff]
  exact exists_congr fun r => and_congr_right fun hr => checks_iff_mask hr w

end Sys2Proof
end

section
/-! SUPPORT. Legal and illegal command words (R103, R105), and what the host's write of an illegal one does. -/

namespace Sys2Proof.Machine

theorem decode_isSome_iff (w : CommandWord) : (decode w).isSome = true ↔ ∃ r ∈ opTable, Laws.fieldsLegal r (fieldsOf w) :=
  decodeFields_isSome_iff (fieldsOf w)

theorem decode_isSome_eq_wellFormedWord (w : CommandWord) : (decode w).isSome = wellFormedWord w := by
  rw [Bool.eq_iff_iff, decode_isSome_iff, wellFormedWord_iff]

/-- Settles O4: both sides say that the word's fields are legal for a row; what is left is the table itself. -/
theorem legalExactlyByMask : Obligations.LegalExactlyByMask := by
  unfold Obligations.LegalExactlyByMask
  refine ⟨fun w => ?_, by decide, ⟨⟨0x02, some .ti, some .ti, some .ti, .unused⟩, by decide⟩, by decide⟩
  simp only [and_mask_eq_pattern_iff, decode_isSome_iff]

theorem runWord_of_illegal {w : CommandWord} (h : wellFormedWord w = false) (s : State) :
    runWord w s = .next (latchCmd w (takeError .illegal s)) := by
  rw [← decode_isSome_eq_wellFormedWord, Option.isSome_eq_false_iff, Option.isNone_iff_eq_none] at h
  simp only [runWord, h]

/-- The reserved opcodes of R103 are bytes, and none of them is the opcode of a row. -/
theorem reservedOpcodes_not_listed {p : Nat × Nat} (hp : p ∈ reservedOpcodes) :
    p.2 < 256 ∧ ∀ r ∈ opTable, r.op.toNat < p.1 ∨ p.2 < r.op.toNat := by
  revert p
  decide

theorem wellFormedWord_of_reserved {p : Nat × Nat} (hp : p ∈ reservedOpcodes) {op a b c imm : Nat} (hlo : p.1 ≤ op) (hhi : op ≤ p.2)
    (ha : a < 16) (hb : b < 16) (hc : c < 16) (himm : imm < 4096) : wellFormedWord (commandWord op a b c imm) = false := by
  obtain ⟨hbyte, hgap⟩ := reservedOpcodes_not_listed hp
  rw [Bool.eq_false_iff, Ne, wellFormedWord_iff, fieldsOf_commandWord op a b c imm (by omega) ha hb hc himm]
  rintro ⟨r, hr, hop, -⟩
  have hrow : r.op.toNat = op := by
    rw [← hop, BitVec.toNat_ofNat, Nat.mod_eq_of_lt (by omega)]
  have := hgap r hr
  omega

/-- Settles O5: an illegal word decodes to no command, so its write ends with `E_ILLEGAL`; no row has a reserved opcode. -/
theorem illegalWordEffect : Obligations.IllegalWordEffect := by
  unfold Obligations.IllegalWordEffect
  refine ⟨fun s v rest hnext hillegal => ?_, fun w => ?_, fun p hp op a b c imm => wellFormedWord_of_reserved hp⟩
  · calc
      step s = runWord (v.setWidth 32) (popTxn rest s) := by
        rw [step_of_next hnext]
        simp only [transact, ↓reduceIte]
      _ = .next (latchCmd (v.setWidth 32) (takeError .illegal (popTxn rest s))) := runWord_of_illegal hillegal _
  · rw [← decode_isSome_eq_wellFormedWord, Option.isSome_iff_exists]

/-- Settles O1: the sample words are those of the commands the rules name; of the other three, the first has a bit of an unused field, the
second an operand above its range, the third a reserved opcode. -/
theorem decodeSampleWords : Obligations.DecodeSampleWords := by
  unfold Obligations.DecodeSampleWords
  decide

end Sys2Proof.Machine
end

section
/-! SUPPORT. From the fields of a command to the word that holds them, and how `chk` and the moves along the time axis end, in the
words of the statements. -/

namespace Sys2Proof.Machine

/-- A word put together as a sum decodes to the command whose fields it holds (R100, R105). -/
theorem decode_commandWord {op a b c imm : Nat} {i : Instr}
    (hi : encodeFields i = ⟨BitVec.ofNat 8 op, BitVec.ofNat 4 a, BitVec.ofNat 4 b, BitVec.ofNat 4 c, BitVec.ofNat 12 imm⟩)
    (hop : op < 256 := by decide) (ha : a < 16 := by omega) (hb : b < 16 := by omega) (hc : c < 16 := by omega)
    (himm : imm < 4096 := by omega) : decode (commandWord op a b c imm) = some i := by
  rw [decode, fieldsOf_commandWord op a b c imm hop ha hb hc himm, ← hi, decodeFields_encodeFields]

/-- A command that checks its result raises `E_OVF` exactly when the result does not fit. -/
theorem raises_ovf_iff_of_checksInto {i : Instr} {d : TiReg} {v : Int} {s : State} (h : ChecksInto i d v s) :
    Raises i 2 s ↔ ¬ Fits v := by
  obtain ⟨hfits, hraises⟩ := h
  refine ⟨fun hr hv => ?_, hraises⟩
  obtain ⟨x, -, hc⟩ := hfits hv
  exact not_completes_of_raises hr hc

/-- Of the 64-bit values only `INT64_MIN` has a negative that does not fit (R134). -/
theorem not_fits_neg_iff (x : TimeInterval) : ¬ Fits (-x.toInt) ↔ x.toInt = -9223372036854775808 := by
  have hx := fits_toInt x
  unfold Fits at *
  omega

/-- Of the 64-bit values only `INT64_MIN` has an absolute value that does not fit (R135). -/
theorem not_fits_abs_iff (x : TimeInterval) : ¬ Fits |x.toInt| ↔ x.toInt = -9223372036854775808 := by
  have hx := fits_toInt x
  unfold Fits at *
  rw [Int.abs_eq_natAbs]
  omega

theorem ok_bind {α β : Type} (x : α) (f : α → Result β) : ((.ok x : Result α) >>= f) = f x := rfl

theorem error_bind {α β : Type} (e : Err) (f : α → Result β) : ((.error e : Result α) >>= f) = .error e := rfl

/-- On the axis `tsChk` answers the point in time at the position (R147). -/
theorem tsChk_of_onAxis {u : Int} (h : OnAxis u) : ∃ t, WellFormed t ∧ position t = u ∧ tsChk u = .ok t := by
  rw [onAxis_iff] at h
  obtain ⟨hwf, hu⟩ := tsFromUnits_spec u h.1 h.2
  exact ⟨_, (wellFormed_iff _).mpr hwf, (position_eq _).trans hu, if_pos h⟩

/-- Off the axis `tsChk` raises `E_OVF` (R147). -/
theorem tsChk_of_not_onAxis {u : Int} (h : ¬ OnAxis u) : tsChk u = .error .ovf := by
  rw [onAxis_iff] at h
  exact if_neg h

theorem needWf_of_wellFormed {t : Timestamp} (h : WellFormed t) : needWf t = .ok () := (needWf_ok t ()).mpr ((wellFormed_iff t).mp h)

theorem needWf_of_not_wellFormed {t : Timestamp} (h : ¬ WellFormed t) : needWf t = .error .operand :=
  (needWf_error t _).mpr ⟨(not_wellFormed_iff t).mp h, rfl⟩

theorem checkedDiff_of_wellFormed {a b : Timestamp} (ha : WellFormed a) (hb : WellFormed b) :
    checkedDiff a b = .ok (position a - position b) :=
  (checkedDiff_ok a b _).mpr ⟨(wellFormed_iff a).mp ha, (wellFormed_iff b).mp hb, tsDiff_eq a b⟩

theorem checkedDiff_of_not_wellFormed {a b : Timestamp} (h : ¬ (WellFormed a ∧ WellFormed b)) :
    checkedDiff a b = .error .operand := by
  rw [Classical.not_and_iff_not_or_not, not_wellFormed_iff, not_wellFormed_iff] at h
  exact (checkedDiff_error a b _).mpr ⟨h, rfl⟩

end Sys2Proof.Machine
end

section
/-! SUPPORT. The `TI.*` commands of the TimeValue unit (R131 to R141). -/

namespace Sys2Proof.Machine

/-- The shift of `TI.TONS` is the division by the units of a nanosecond (R10, R138). -/
theorem sra_sixteen (v : Int) : sra v 16 = v / 65536 := by
  norm_num [sra]

theorem fits_sra_sixteen {v : Int} (h : Fits v) : Fits (sra v 16) := by
  rw [sra_sixteen]
  unfold Fits at *
  omega

theorem exec_tiMov (d a : TiReg) (s : State) : exec (.tiMov d a) s = command (plain fun s => setTi d s.ti[a] s) s := rfl

theorem exec_tiHalf (d a : TiReg) (s : State) :
    exec (.tiHalf d a) s = command (plain fun s => setTi d (raw64 (divT (tiInt s a) 2)) s) s := rfl

theorem exec_tiToNs (d a : TiReg) (s : State) :
    exec (.tiToNs d a) s = command (plain fun s => setTi d (raw64 (sra (tiInt s a) 16)) s) s := rfl

/-- Settles O25: the results of `TI.HALF` and `TI.TONS` are quotients of the operand, so they fit the register. -/
theorem moveHalfToNs : Obligations.MoveHalfToNs := by
  unfold Obligations.MoveHalfToNs
  intro d a s
  have hfits : Fits s.ti[a].toInt := fits_toInt s.ti[a]
  have htons : (raw64 (sra (tiInt s a) 16)).toInt = s.ti[a].toInt / 65536 :=
    (raw64_toInt_of_fits _ (fits_sra_sixteen hfits)).trans (sra_sixteen _)
  exact ⟨decode_commandWord rfl, decode_commandWord rfl, decode_commandWord rfl,
    completes_of_ok (exec_tiMov d a s) rfl rfl, ⟨_, divT_fits _ 2 hfits, completes_of_ok (exec_tiHalf d a s) rfl rfl⟩,
    ⟨_, htons, completes_of_ok (exec_tiToNs d a s) rfl rfl⟩⟩

/-- Settles O26: each command ends with a `chk` of the exact result. -/
theorem checkedSums : Obligations.CheckedSums := by
  unfold Obligations.CheckedSums
  intro d a b s
  have hneg : ChecksInto (.tiNeg d a) d (-s.ti[a].toInt) s := checksInto_of_toTi rfl rfl
  have habs : ChecksInto (.tiAbs d a) d |s.ti[a].toInt| s :=
    checksInto_of_toTi rfl (congrArg chk (Int.abs_eq_natAbs _).symm)
  exact ⟨decode_commandWord rfl, decode_commandWord rfl, decode_commandWord rfl, decode_commandWord rfl,
    checksInto_of_toTi rfl rfl, checksInto_of_toTi rfl rfl, hneg, habs,
    (raises_ovf_iff_of_checksInto hneg).trans (not_fits_neg_iff _),
    (raises_ovf_iff_of_checksInto habs).trans (not_fits_abs_iff _)⟩

/-- The fields of a command of format `ABI12`, with the immediate given as a number (R102). -/
theorem fields_ofNat_toNat_imm (op : BitVec 8) (a b c : BitVec 4) (imm : BitVec 12) :
    Fields.mk op a b c imm = ⟨op, a, b, c, BitVec.ofNat 12 imm.toNat⟩ := by
  rw [BitVec.ofNat_toNat, BitVec.setWidth_eq]

/-- Settles O27: each command ends with a `chk` of the exact product. -/
theorem checkedProducts : Obligations.CheckedProducts := by
  unfold Obligations.CheckedProducts
  intro d a imm s
  exact ⟨decode_commandWord rfl, decode_commandWord (fields_ofNat_toNat_imm ..), checksInto_of_toTi rfl rfl,
    checksInto_of_toTi rfl rfl⟩

/-- What `TI.DIVI` computes for its register (R141). -/
def tiDivIValue (a : TiReg) (imm : BitVec 12) (s : State) : Result TimeInterval := do
  ensure (imm != 0) .div
  return raw64 (divT (tiInt s a) imm.toNat)

theorem exec_tiDivI (d a : TiReg) (imm : BitVec 12) (s : State) :
    exec (.tiDivI d a imm) s = command (toTi d (tiDivIValue a imm)) s := rfl

theorem tiDivIValue_zero (a : TiReg) (s : State) : tiDivIValue a 0 s = .error .div := rfl

theorem tiDivIValue_of_ne {imm : BitVec 12} (h : imm ≠ 0) (a : TiReg) (s : State) :
    tiDivIValue a imm s = .ok (raw64 (divT (tiInt s a) imm.toNat)) :=
  (bind_ok _ _ _).mpr ⟨(), (ensure_ok _ _ _).mpr (bne_iff_ne.mpr h), rfl⟩

/-- Settles O28: a quotient by a natural number fits the register, so only a zero immediate fails. -/
theorem divideByImmediate : Obligations.DivideByImmediate := by
  unfold Obligations.DivideByImmediate
  intro d a imm s
  refine ⟨decode_commandWord (fields_ofNat_toNat_imm ..), fun hzero => ?_, fun hne => ?_⟩
  · subst hzero
    exact raises_of_error (exec_tiDivI d a 0 s) ((toTi_error _ _ _ _).mpr (tiDivIValue_zero a s))
  · have hbody := (toTi_ok d (tiDivIValue a imm) s _ _).mpr ⟨_, tiDivIValue_of_ne hne a s, rfl, rfl⟩
    exact ⟨_, divT_fits _ imm.toNat (fits_toInt s.ti[a]), completes_of_ok (exec_tiDivI d a imm s) hbody rfl⟩

/-- Settles O29: the two flags are the comparisons of the signed values. -/
theorem compareSetsFlags : Obligations.CompareSetsFlags := by
  unfold Obligations.CompareSetsFlags
  intro a b s
  exact ⟨decode_commandWord rfl, decide (tiInt s a < tiInt s b), decide (tiInt s a = tiInt s b), decide_eq_true_iff,
    decide_eq_true_iff.trans BitVec.toInt_inj, rfl⟩

end Sys2Proof.Machine
end

section
/-! SUPPORT. The `TS.*` commands of the TimeValue unit (R145 to R148). -/

namespace Sys2Proof.Machine

theorem exec_tsMov (d a : TsReg) (s : State) : exec (.tsMov d a) s = command (plain fun s => setTs d s.ts[a] s) s := rfl

/-- The pseudocode of `TS.ADDI` (R147). -/
def tsAddIBody (d a : TsReg) (v : TiReg) : Body := fun s => do
  needWf s.ts[a]
  let t ← tsChk (tsUnits s.ts[a] + tiInt s v)
  return (setTs d t s, false)

theorem exec_tsAddI (d a : TsReg) (v : TiReg) (s : State) : exec (.tsAddI d a v) s = command (tsAddIBody d a v) s := rfl

/-- Once its operand is a point in time, `TS.ADDI` ends as `tsChk` of the moved position does. -/
theorem tsAddIBody_of_wellFormed {a : TsReg} {s : State} (h : WellFormed s.ts[a]) (d : TsReg) (v : TiReg) :
    tsAddIBody d a v s = (do let t ← tsChk (position s.ts[a] + s.ti[v].toInt); return (setTs d t s, false)) := by
  rw [tsAddIBody, needWf_of_wellFormed h, ok_bind, position_eq]
  rfl

theorem tsAddIBody_of_not_wellFormed {a : TsReg} {s : State} (h : ¬ WellFormed s.ts[a]) (d : TsReg) (v : TiReg) :
    tsAddIBody d a v s = .error .operand := by
  rw [tsAddIBody, needWf_of_not_wellFormed h, error_bind]

/-- Settles O30: `TS.ADDI` checks its operand first and then the position it moves to. -/
theorem timestampMoveAndAdd : Obligations.TimestampMoveAndAdd := by
  unfold Obligations.TimestampMoveAndAdd
  intro d a v s
  refine ⟨decode_commandWord rfl, decode_commandWord rfl, completes_of_ok (exec_tsMov d a s) rfl rfl, fun hill => ?_,
    fun hwf hon => ?_, fun hwf hoff => ?_⟩
  · exact raises_of_error (exec_tsAddI d a v s) (tsAddIBody_of_not_wellFormed hill d v)
  · obtain ⟨t, htwf, hpos, ht⟩ := tsChk_of_onAxis hon
    have hbody : tsAddIBody d a v s = .ok (setTs d t s, false) := by
      rw [tsAddIBody_of_wellFormed hwf, ht, ok_bind]
      rfl
    exact ⟨t, htwf, hpos, completes_of_ok (exec_tsAddI d a v s) hbody rfl⟩
  · have hbody : tsAddIBody d a v s = .error .ovf := by
      rw [tsAddIBody_of_wellFormed hwf, tsChk_of_not_onAxis hoff, error_bind]
    exact raises_of_error (exec_tsAddI d a v s) hbody

/-- What `TS.SUB` computes for its register (R146). -/
def tsSubValue (a b : TsReg) (s : State) : Result TimeInterval := do
  let v ← checkedDiff s.ts[a] s.ts[b]
  chk v

theorem exec_tsSub (d : TiReg) (a b : TsReg) (s : State) : exec (.tsSub d a b) s = command (toTi d (tsSubValue a b)) s := rfl

/-- What `TS.DIFFC` computes for its register (R148): the value of `TS.SUB`, corrected. -/
def tsDiffCValue (a b : TsReg) (c : TiReg) (s : State) : Result TimeInterval := do
  let v ← checkedDiff s.ts[a] s.ts[b]
  let diff ← chk v
  chk (diff.toInt - tiInt s c)

theorem exec_tsDiffC (d : TiReg) (a b : TsReg) (c : TiReg) (s : State) :
    exec (.tsDiffC d a b c) s = command (toTi d (tsDiffCValue a b c)) s := rfl

section
variable {a b : TsReg} {s : State}

theorem tsSubValue_of_wellFormed (ha : WellFormed s.ts[a]) (hb : WellFormed s.ts[b]) :
    tsSubValue a b s = chk (position s.ts[a] - position s.ts[b]) := by
  rw [tsSubValue, checkedDiff_of_wellFormed ha hb, ok_bind]

theorem tsSubValue_of_not_wellFormed (h : ¬ (WellFormed s.ts[a] ∧ WellFormed s.ts[b])) : tsSubValue a b s = .error .operand := by
  rw [tsSubValue, checkedDiff_of_not_wellFormed h, error_bind]

/-- The correction is applied to what `TS.SUB` computes, so an error of `TS.SUB` is one of `TS.DIFFC`. -/
theorem tsDiffCValue_eq (c : TiReg) :
    tsDiffCValue a b c s = (do let diff ← tsSubValue a b s; chk (diff.toInt - tiInt s c)) := by
  rw [tsDiffCValue, tsSubValue, bind_assoc]

theorem tsDiffCValue_of_error {e : Err} (h : tsSubValue a b s = .error e) (c : TiReg) : tsDiffCValue a b c s = .error e := by
  rw [tsDiffCValue_eq, h, error_bind]

theorem tsDiffCValue_of_ok {x : TimeInterval} (h : tsSubValue a b s = .ok x) (c : TiReg) :
    tsDiffCValue a b c s = chk (x.toInt - tiInt s c) := by
  rw [tsDiffCValue_eq, h, ok_bind]

end

theorem raises_of_tsDiffCValue {a b : TsReg} {c : TiReg} {s : State} {e : Err} (h : tsDiffCValue a b c s = .error e) (d : TiReg) :
    Raises (.tsDiffC d a b c) (errCode e) s :=
  raises_of_error (exec_tsDiffC d a b c s) ((toTi_error _ _ _ _).mpr h)

/-- Settles O31: `TS.SUB` checks its operands and then the difference; `TS.DIFFC` does the same, and checks the corrected difference
after it. -/
theorem timestampDifferences : Obligations.TimestampDifferences := by
  unfold Obligations.TimestampDifferences
  intro d a b c s
  refine ⟨decode_commandWord rfl, decode_commandWord rfl, fun hill => ?_, fun ha hb => ⟨?_, fun hbig => ?_, fun hfits => ?_⟩⟩
  · have hsub := tsSubValue_of_not_wellFormed hill
    exact ⟨raises_of_error (exec_tsSub d a b s) ((toTi_error _ _ _ _).mpr hsub),
      raises_of_tsDiffCValue (tsDiffCValue_of_error hsub c) d⟩
  · exact checksInto_of_toTi (exec_tsSub d a b s) (tsSubValue_of_wellFormed ha hb)
  · have hsub := (tsSubValue_of_wellFormed ha hb).trans (chk_of_not_fits _ hbig)
    exact raises_of_tsDiffCValue (tsDiffCValue_of_error hsub c) d
  · have hsub := (tsSubValue_of_wellFormed ha hb).trans (chk_of_fits _ hfits)
    have hdiff := tsDiffCValue_of_ok hsub c
    rw [raw64_toInt_of_fits _ hfits] at hdiff
    exact checksInto_of_toTi (exec_tsDiffC d a b c s) hdiff

end Sys2Proof.Machine
end

section
/-! SUPPORT. The commands of the host's general timers (R171 to R176), a check at a time. -/

namespace Sys2Proof.Machine

theorem ensure_of_true {c : Bool} (h : c = true) (e : Err) : ensure c e = .ok () := (ensure_ok c e ()).mpr h

theorem ensure_of_false {c : Bool} (h : c = false) (e : Err) : ensure c e = .error e := (ensure_error c e e).mpr ⟨h, rfl⟩

theorem needGeneral_of_general {i : TmrId} (h : 2 ≤ i.val) : needGeneral i = .ok () := ensure_of_true (decide_eq_true h) _

theorem needGeneral_of_settle {i : TmrId} (h : i.val < 2) : needGeneral i = .error .cfg :=
  ensure_of_false (decide_eq_false (by omega)) _

/-- The pseudocode of `TM.INIT` (R172). -/
def tmInitBody (i : TmrId) (inst : BitVec 8) : Body := fun s => do
  needGeneral i
  ensure (!s.tm[i].armed) .cfg
  return (setTimer i { s.tm[i] with
    init := true, armed := false, periodic := false, stopPending := false, inst := inst, fireCnt := 0, lossCnt := 0 } s, false)

theorem exec_tmInit (i : TmrId) (inst : BitVec 8) (s : State) : exec (.tmInit i inst) s = command (tmInitBody i inst) s := rfl

/-- The pseudocode of `TM.STOP` (R176). -/
def tmStopBody (i : TmrId) : Body := fun s => do
  needGeneral i
  if s.tm[i].armed then return (setTimer i { s.tm[i] with stopPending := true } s, false)
  else return (s, false)

theorem exec_tmStop (i : TmrId) (s : State) : exec (.tmStop i) s = command (tmStopBody i) s := rfl

section
variable {i : TmrId} {s : State}

theorem tmInitBody_of_settle (h : i.val < 2) (inst : BitVec 8) : tmInitBody i inst s = .error .cfg := by
  rw [tmInitBody, needGeneral_of_settle h, error_bind]

theorem tmInitBody_of_armed (h : 2 ≤ i.val) (harmed : s.tm[i].armed = true) (inst : BitVec 8) :
    tmInitBody i inst s = .error .cfg := by
  rw [tmInitBody, needGeneral_of_general h, ok_bind, ensure_of_false (congrArg not harmed), error_bind]

theorem tmInitBody_of_unarmed (h : 2 ≤ i.val) (harmed : s.tm[i].armed = false) (inst : BitVec 8) :
    tmInitBody i inst s = .ok (setTimer i { s.tm[i] with
      init := true, armed := false, periodic := false, stopPending := false, inst := inst, fireCnt := 0, lossCnt := 0 } s, false) := by
  rw [tmInitBody, needGeneral_of_general h, ok_bind, ensure_of_true (congrArg not harmed), ok_bind]
  rfl

theorem tmStopBody_of_settle (h : i.val < 2) : tmStopBody i s = .error .cfg := by
  rw [tmStopBody, needGeneral_of_settle h, error_bind]

theorem tmStopBody_of_armed (h : 2 ≤ i.val) (harmed : s.tm[i].armed = true) :
    tmStopBody i s = .ok (setTimer i { s.tm[i] with stopPending := true } s, false) := by
  rw [tmStopBody, needGeneral_of_general h, ok_bind, if_pos harmed]
  rfl

theorem tmStopBody_of_unarmed (h : 2 ≤ i.val) (harmed : s.tm[i].armed = false) : tmStopBody i s = .ok (s, false) := by
  rw [tmStopBody, needGeneral_of_general h, ok_bind, if_neg (Bool.eq_false_iff.mp harmed)]
  rfl

end

/-- Settles O58: `TM.INIT` needs a general timer that is not armed, `TM.STOP` a general timer. -/
theorem timerInitAndStop : Obligations.TimerInitAndStop := by
  unfold Obligations.TimerInitAndStop
  intro i inst s
  have hinit := exec_tmInit i inst s
  have hstop := exec_tmStop i s
  have himm : encodeFields (.tmInit i inst) = ⟨BitVec.ofNat 8 0x60, field i, 0, 0, BitVec.ofNat 12 inst.toNat⟩ := by
    rw [BitVec.ofNat_toNat]
    rfl
  refine ⟨decode_commandWord himm, decode_commandWord rfl, fun hsettle => ⟨?_, ?_⟩, fun hgen harmed => ⟨?_, ?_⟩,
    fun hgen hunarmed => ⟨?_, ?_⟩⟩
  · exact raises_of_error hinit (tmInitBody_of_settle hsettle inst)
  · exact raises_of_error hstop (tmStopBody_of_settle hsettle)
  · exact raises_of_error hinit (tmInitBody_of_armed hgen harmed inst)
  · exact completes_of_ok hstop (tmStopBody_of_armed hgen harmed) rfl
  · exact completes_of_ok hinit (tmInitBody_of_unarmed hgen hunarmed inst) rfl
  · exact completes_of_ok hstop (tmStopBody_of_unarmed hgen hunarmed) rfl

/-- The pseudocode of `TM.START` (R174). -/
def tmStartBody (i : TmrId) (a : TiReg) (rep : Bool) : Body := fun s => do
  needGeneral i
  ensure s.tm[i].init .cfg
  let ticks := tiNat s a
  ensure (decide (ticks < 2 ^ 32)) .operand
  ensure (!(rep && ticks == 0)) .cfg
  let s ← arm i ticks rep s
  return (s, false)

theorem exec_tmStart (i : TmrId) (a : TiReg) (rep : Bool) (s : State) :
    exec (.tmStart i a rep) s = command (tmStartBody i a rep) s := rfl

section
variable {i : TmrId} {a : TiReg} {rep : Bool} {s : State}

theorem tmStartBody_of_settle (h : i.val < 2) : tmStartBody i a rep s = .error .cfg := by
  rw [tmStartBody, needGeneral_of_settle h, error_bind]

theorem tmStartBody_of_uninitialised (h : 2 ≤ i.val) (hinit : s.tm[i].init = false) : tmStartBody i a rep s = .error .cfg := by
  rw [tmStartBody, needGeneral_of_general h, ok_bind, ensure_of_false hinit, error_bind]

/-- What is left of `TM.START` for an initialised general timer. -/
theorem tmStartBody_of_initialised (h : 2 ≤ i.val) (hinit : s.tm[i].init = true) :
    tmStartBody i a rep s = (do
      ensure (decide (s.ti[a].toNat < 4294967296)) .operand
      ensure (!(rep && s.ti[a].toNat == 0)) .cfg
      let s ← arm i s.ti[a].toNat rep s
      return (s, false)) := by
  rw [tmStartBody, needGeneral_of_general h, ok_bind, ensure_of_true hinit, ok_bind]
  rfl

theorem tmStartBody_of_many (h : 2 ≤ i.val) (hinit : s.tm[i].init = true) (hticks : 4294967296 ≤ s.ti[a].toNat) :
    tmStartBody i a rep s = .error .operand := by
  rw [tmStartBody_of_initialised h hinit, ensure_of_false (decide_eq_false (by omega)), error_bind]

theorem tmStartBody_of_zeroPeriod (h : 2 ≤ i.val) (hinit : s.tm[i].init = true) (hrep : rep = true) (hticks : s.ti[a].toNat = 0) :
    tmStartBody i a rep s = .error .cfg := by
  rw [tmStartBody_of_initialised h hinit, ensure_of_true (decide_eq_true (by omega)), ok_bind,
    ensure_of_false (by rw [hrep, hticks]; rfl), error_bind]

/-- Once its checks have passed, `TM.START` ends as `arm` does. -/
theorem tmStartBody_of_legal (h : 2 ≤ i.val) (hinit : s.tm[i].init = true) (hticks : s.ti[a].toNat < 4294967296)
    (hperiod : ¬ (rep = true ∧ s.ti[a].toNat = 0)) :
    tmStartBody i a rep s = (do let s ← arm i s.ti[a].toNat rep s; return (s, false)) := by
  have hcheck : (!(rep && s.ti[a].toNat == 0)) = true := by simpa [imp_iff_not_or] using hperiod
  rw [tmStartBody_of_initialised h hinit, ensure_of_true (decide_eq_true hticks), ok_bind, ensure_of_true hcheck, ok_bind]

end

/-- Settles O59: the checks of `TM.START` in their order, and then `arm`, whose deadline is `roundup_tick` (`roundedUp_roundupTick`). -/
theorem timerStart : Obligations.TimerStart := by
  unfold Obligations.TimerStart
  intro i a rep s
  have hexec := exec_tmStart i a rep s
  have hword : encodeFields (.tmStart i a rep) = ⟨BitVec.ofNat 8 0x61, field i, field a, BitVec.ofNat 4 rep.toNat, 0⟩ := by
    cases rep <;> rfl
  refine ⟨decode_commandWord hword (hc := by have := rep.toNat_le; omega), fun hsettle => ?_, fun hgen hinit => ?_,
    fun hgen hinit hmany => ?_, fun hgen hinit hrep hzero => ?_, fun hgen hinit hfew hperiod => ?_⟩
  · exact raises_of_error hexec (tmStartBody_of_settle hsettle)
  · exact raises_of_error hexec (tmStartBody_of_uninitialised hgen hinit)
  · exact raises_of_error hexec (tmStartBody_of_many hgen hinit hmany)
  · exact raises_of_error hexec (tmStartBody_of_zeroPeriod hgen hinit hrep hzero)
  · have hbody := tmStartBody_of_legal hgen hinit hfew hperiod
    refine ⟨armDeadline s s.ti[a].toNat, roundedUp_roundupTick s _, fun hlate => ?_, fun hfits => ?_⟩
    · have harm := (arm_error i s.ti[a].toNat rep s _).mpr ⟨hlate, rfl⟩
      exact raises_of_error hexec (by rw [hbody, harm, error_bind])
    · have harm := (arm_ok i s.ti[a].toNat rep s _).mpr ⟨hfits, rfl⟩
      rw [← BitVec.ofNat_toNat]
      exact completes_of_ok hexec (by rw [hbody, harm, ok_bind]; rfl) rfl

end Sys2Proof.Machine
end

section
/-! SUPPORT. What a tick makes of one timer (R178, R179, R181), in the words of Safety.lean. -/

namespace Sys2Proof.Machine

/-- The timer is due and its period is zero, which ends the tick with `E_CFG` (R178). -/
abbrev NoPeriod (t : Timer) (now : Nat) : Prop := Due t now ∧ t.periodic = true ∧ t.periodUs = 0

/-- The timer is due and its next deadline is out of range, which ends the tick with `E_OVF` (R178). -/
abbrev TooFar (t : Timer) (now : Nat) : Prop := Due t now ∧ t.periodic = true ∧ t.periodUs ≠ 0 ∧ ¬ AdvanceFits t now

/-- The timer does not end the tick. -/
abbrev Ticks (t : Timer) (now : Nat) : Prop := ¬ NoPeriod t now ∧ ¬ TooFar t now

/-- The deadline after the whole periods of `periodsDue`. -/
def advancedDeadline (t : Timer) (now : Nat) : Nat :=
  t.deadlineUs.toNat + periodsDue t.deadlineUs.toNat t.periodUs.toNat now * t.periodUs.toNat

/-- What `expiredTimer` answers when it does not raise. -/
def firedTimer (t : Timer) (now : Nat) : Timer :=
  if t.periodic = true then
    { t with deadlineUs := BitVec.ofNat 64 (advancedDeadline t now), fireCnt := t.fireCnt + 1
             lossCnt := t.lossCnt + BitVec.ofNat 32 (periodsDue t.deadlineUs.toNat t.periodUs.toNat now - 1) }
  else { t with armed := false, fireCnt := t.fireCnt + 1 }

/-- The record of a timer after a tick that it does not end. -/
def tickedTimer (t : Timer) (now : Nat) : Timer :=
  if Dropped t then { t with armed := false, stopPending := false } else if Due t now then firedTimer t now else t

section
variable {t : Timer} {now : Nat}

theorem period_pos (h : t.periodUs ≠ 0) : 0 < t.periodUs.toNat :=
  Nat.pos_of_ne_zero fun h0 => h (BitVec.eq_of_toNat_eq h0)

/-- One period before the advanced deadline the timer was still due. -/
theorem deadline_due (hdue : Due t now) :
    t.deadlineUs.toNat + (periodsDue t.deadlineUs.toNat t.periodUs.toNat now - 1) * t.periodUs.toNat ≤ now := by
  obtain ⟨-, -, hle⟩ := hdue
  have hmul := Nat.div_mul_le_self (now - t.deadlineUs.toNat) t.periodUs.toNat
  rw [periodsDue, Nat.add_sub_cancel]
  omega

theorem lt_advancedDeadline (hp : t.periodUs ≠ 0) : now < advancedDeadline t now := by
  have hlt := Nat.lt_div_mul_add (a := now - t.deadlineUs.toNat) (period_pos hp)
  rw [advancedDeadline, periodsDue, Nat.add_mul, Nat.one_mul]
  omega

/-- Of the deadlines on the period grid the advanced one is the last that the loop of R178 reaches. -/
theorem advanceFits_iff (hdue : Due t now) (hp : t.periodUs ≠ 0) : AdvanceFits t now ↔ advancedDeadline t now < 2 ^ 64 := by
  constructor
  · exact fun h => h _ (deadline_due hdue)
  · intro h n hn
    have hle : n ≤ (now - t.deadlineUs.toNat) / t.periodUs.toNat := (Nat.le_div_iff_mul_le (period_pos hp)).mpr (by omega)
    have hmul := Nat.mul_le_mul_right t.periodUs.toNat (Nat.add_le_add_right hle 1)
    exact (Nat.add_le_add_left hmul _).trans_lt h

theorem firedTimer_firesTo (hdue : Due t now) (h : Ticks t now) : FiresTo t (firedTimer t now) now := by
  unfold FiresTo firedTimer
  by_cases hper : t.periodic = true
  · have hp : t.periodUs ≠ 0 := fun h0 => h.1 ⟨hdue, hper, h0⟩
    rw [if_pos hper, if_pos hper]
    exact ⟨_, Nat.le_add_left 1 _, deadline_due hdue, lt_advancedDeadline hp, rfl⟩
  · rw [if_neg hper, if_neg hper]

theorem expiredTimer_of_oneShot (hper : t.periodic ≠ true) : expiredTimer t now = .ok (firedTimer t now) := by
  unfold expiredTimer firedTimer
  rw [if_neg hper, if_neg hper]
  rfl

/-- A periodic timer with a period is checked only for its next deadline. -/
theorem expiredTimer_of_period (hper : t.periodic = true) (hp : t.periodUs ≠ 0) :
    expiredTimer t now = (do ensure (decide (advancedDeadline t now < 2 ^ 64)) .ovf; return firedTimer t now) := by
  unfold expiredTimer firedTimer
  rw [if_pos hper, if_pos hper, ensure_of_true (bne_iff_ne.mpr hp), ok_bind]
  rfl

theorem expiredTimer_of_ticks (hdue : Due t now) (h : Ticks t now) : expiredTimer t now = .ok (firedTimer t now) := by
  obtain ⟨hcfg, hovf⟩ := h
  by_cases hper : t.periodic = true
  · have hp : t.periodUs ≠ 0 := fun h0 => hcfg ⟨hdue, hper, h0⟩
    have hfits : AdvanceFits t now := by
      by_contra hfar
      exact hovf ⟨hdue, hper, hp, hfar⟩
    rw [expiredTimer_of_period hper hp, ensure_of_true (decide_eq_true ((advanceFits_iff hdue hp).mp hfits)), ok_bind]
    rfl
  · exact expiredTimer_of_oneShot hper

theorem expiredTimer_of_noPeriod (h : NoPeriod t now) : expiredTimer t now = .error .cfg := by
  obtain ⟨-, hper, hp⟩ := h
  unfold expiredTimer
  rw [if_pos hper, ensure_of_false (by rw [hp]; rfl), error_bind]

theorem expiredTimer_of_tooFar (h : TooFar t now) : expiredTimer t now = .error .ovf := by
  obtain ⟨hdue, hper, hp, hfar⟩ := h
  rw [advanceFits_iff hdue hp] at hfar
  rw [expiredTimer_of_period hper hp, ensure_of_false (decide_eq_false hfar), error_bind]

theorem not_dropped_of_due (h : Due t now) : ¬ Dropped t := fun ⟨_, hstop⟩ => by
  obtain ⟨-, hgoing, -⟩ := h
  exact Bool.false_ne_true (hgoing.symm.trans hstop)

theorem tickedTimer_of_dropped (h : Dropped t) : tickedTimer t now = { t with armed := false, stopPending := false } := if_pos h

theorem tickedTimer_of_due (h : Due t now) : tickedTimer t now = firedTimer t now := by
  rw [tickedTimer, if_neg (not_dropped_of_due h), if_pos h]

theorem tickedTimer_of_idle (hd : ¬ Dropped t) (h : ¬ Due t now) : tickedTimer t now = t := by
  rw [tickedTimer, if_neg hd, if_neg h]

end

theorem setTimer_get_self (i : TmrId) (s : State) : setTimer i s.tm[i] s = s :=
  congrArg (fun v => { s with tm := v }) (set_get_same s.tm i)

section
variable {now : Nat} {s : State} {f : Bool} {i : TmrId}

theorem tickOne_of_dropped (h : Dropped s.tm[i]) : tickOne now (s, f) i = .ok (disarm i s, f) := by
  obtain ⟨harmed, hstop⟩ := h
  simp only [tickOne, harmed, hstop, Bool.and_self, ↓reduceIte]

/-- A due timer's part of the tick. -/
theorem tickOne_of_due (h : Due s.tm[i] now) :
    tickOne now (s, f) i = (do let t ← expiredTimer s.tm[i] now; return (fire i (setTimer i t s), true)) := by
  obtain ⟨harmed, hstop, hle⟩ := h
  simp only [tickOne, harmed, hstop, hle, Bool.and_false, Bool.false_eq_true, decide_true, Bool.and_self, ↓reduceIte]

theorem tickOne_of_idle (hd : ¬ Dropped s.tm[i]) (h : ¬ Due s.tm[i] now) : tickOne now (s, f) i = .ok (s, f) := by
  rw [tickOne, if_neg (by simpa using hd), if_neg]
  rw [Bool.and_eq_true, decide_eq_true_eq]
  exact fun ⟨harmed, hle⟩ => h ⟨harmed, Bool.eq_false_iff.mpr fun hstop => hd ⟨harmed, hstop⟩, hle⟩

end

/-! The settle action (R278, R288). -/

/-- The clock state that ends a settling, any other one unchanged: the column of R288 for the settle timer. -/
def settledClock (cs : BitVec 4) : BitVec 4 := BitVec.ofNat 4 (settleColumn cs.toNat)

theorem setSt_get_self (c : CtxId) (s : State) : setSt c s.sv[c].st s = s :=
  congrArg (fun v => { s with sv := v }) (set_get_same s.sv c)

/-- `settle_expire(c)` writes the clock state, and raises `STATE_CHG` when that changes it. -/
theorem settleExpire_eq (c : CtxId) (s : State) :
    settleExpire c s = event (if settledClock s.sv[c].st.clockState = s.sv[c].st.clockState then 0 else evStateChg)
      (setSt c { s.sv[c].st with clockState := settledClock s.sv[c].st.clockState } s) := by
  unfold settleExpire
  by_cases hf : s.sv[c].st.clockState = csFSettling
  · simp only [hf]
    rfl
  · by_cases hp : s.sv[c].st.clockState = csPSettling
    · simp only [hp]
      rfl
    · have hsame : ∀ cs : BitVec 4, cs ≠ csFSettling → cs ≠ csPSettling → settledClock cs = cs := by decide
      simp only [hf, hp, ↓reduceIte, hsame _ hf hp]
      exact ((congrArg (event 0) (setSt_get_self c s)).trans (event_zero s)).symm

theorem fire_general {i : TmrId} (h : 2 ≤ i.val) (s : State) : fire i s = event (evTimer i) s := dif_neg (by omega)

theorem fire_settle (c : CtxId) (s : State) : fire (settleTimer c) s = event (evTimer (settleTimer c)) (settleExpire c s) :=
  dif_pos c.isLt

theorem tickedClock_of_due {s : State} {now : Nat} {c : CtxId} (h : Due s.tm[settleTimer c] now) :
    tickedClock s now c = settledClock s.sv[c].st.clockState := if_pos h

theorem tickedClock_of_not_due {s : State} {now : Nat} {c : CtxId} (h : ¬ Due s.tm[settleTimer c] now) :
    tickedClock s now c = s.sv[c].st.clockState := if_neg h

end Sys2Proof.Machine
end

section
/-! SUPPORT. A tick as far as the timers below an index (R180): records, clock states and events are those after the tick for these timers,
and still those before it for the others. -/

namespace Sys2Proof.Machine

/-- The elements of `new` below an index, those of `old` from there on. -/
def below {α : Type} {N : Nat} (old : Vector α N) (new : Fin N → α) (n : Nat) : Vector α N :=
  Vector.ofFn fun j => if j.val < n then new j else old[j]

section
variable {α : Type} {N : Nat} {old : Vector α N} {new : Fin N → α}

theorem below_get (n : Nat) (j : Fin N) : (below old new n)[j] = if j.val < n then new j else old[j] :=
  Vector.getElem_ofFn j.isLt

theorem below_get_of_lt {n : Nat} {j : Fin N} (h : j.val < n) : (below old new n)[j] = new j := by
  rw [below_get, if_pos h]

theorem below_get_self (i : Fin N) : (below old new i.val)[i] = old[i] := by
  rw [below_get, if_neg (Nat.lt_irrefl _)]

theorem vector_ext_fin {v w : Vector α N} (h : ∀ j : Fin N, v[j] = w[j]) : v = w :=
  Vector.ext fun j hj => h ⟨j, hj⟩

theorem below_zero : below old new 0 = old := vector_ext_fin fun j => by
  rw [below_get, if_neg (Nat.not_lt_zero _)]

theorem below_succ (i : Fin N) : below old new (i.val + 1) = (below old new i.val).set i.val (new i) := vector_ext_fin fun j => by
  by_cases hj : j = i
  · subst hj
    rw [get_set_same, below_get_of_lt (Nat.lt_succ_self _)]
  · have hval : j.val ≠ i.val := fun h => hj (Fin.ext h)
    have hiff : j.val < i.val + 1 ↔ j.val < i.val := by omega
    rw [get_set_ne _ _ _ _ hj, below_get, below_get]
    simp only [hiff]

theorem below_succ_of_same {i : Fin N} (h : new i = old[i]) : below old new (i.val + 1) = below old new i.val := by
  have hset := set_get_same (below old new i.val) i
  rw [below_get_self, ← h] at hset
  exact (below_succ i).trans hset

theorem below_succ_of_le {n : Nat} (h : N ≤ n) : below old new (n + 1) = below old new n := vector_ext_fin fun j => by
  rw [below_get_of_lt (by omega), below_get_of_lt (by omega)]

end

/-- The context after the tick: only its clock state may have changed (R278). -/
def tickedContext (s : State) (now : Nat) (c : CtxId) : Context :=
  { s.sv[c] with st := { s.sv[c].st with clockState := tickedClock s now c } }

/-- The sum of the event bits of the due timers below an index, as `tickEvents` has it. -/
def dueSum (s : State) (now n : Nat) : Nat :=
  (List.range n).foldl (fun a i => a + if Due s.tm[Fin.ofNat 8 i] now then 2 ^ i else 0) 0

/-- `STATE_CHG` for one context. -/
def clockEvent (s : State) (now : Nat) (c : CtxId) : BitVec 12 :=
  if tickedClock s now c = s.sv[c].st.clockState then 0 else evStateChg

/-- `STATE_CHG` for the contexts below an index. -/
def clockEvents (s : State) (now n : Nat) : BitVec 12 :=
  if ∀ c : CtxId, c.val < n → tickedClock s now c = s.sv[c].st.clockState then 0 else evStateChg

/-- The event bits that the timers below an index raise (R181). -/
def eventsBelow (s : State) (now n : Nat) : BitVec 12 := BitVec.ofNat 12 (dueSum s now n) ||| clockEvents s now n

/-- A timer below the index is due. -/
def firedBelow (s : State) (now n : Nat) : Bool := decide (∃ i : TmrId, i.val < n ∧ Due s.tm[i] now)

/-- The state of the tick once it has visited the timers below an index. -/
def tickedBelow (s : State) (now n : Nat) : State :=
  { s with
    tm := below s.tm (fun i => tickedTimer s.tm[i] now) n
    sv := below s.sv (tickedContext s now) n
    evt := s.evt ||| eventsBelow s now n }

section
variable {s : State} {now : Nat} {i : TmrId} {c : CtxId}

theorem dueSum_succ (i : TmrId) : dueSum s now (i.val + 1) = dueSum s now i.val + if Due s.tm[i] now then 2 ^ i.val else 0 := by
  have hi : Fin.ofNat 8 i.val = i := Fin.ofNat_val_eq_self i
  simp only [dueSum, List.range_succ, List.foldl_append, List.foldl_cons, List.foldl_nil, hi]

theorem dueSum_lt (n : Nat) (h : n ≤ 8) : dueSum s now n < 2 ^ n := by
  induction n with
  | zero => exact Nat.one_pos
  | succ n ih =>
    have hn := ih (by omega)
    rw [dueSum_succ ⟨n, h⟩, pow_succ]
    dsimp only
    split <;> omega

/-- The bits of different timers do not carry into each other. -/
theorem ofNat_dueSum_succ_of_due (hdue : Due s.tm[i] now) :
    BitVec.ofNat 12 (dueSum s now (i.val + 1)) = BitVec.ofNat 12 (dueSum s now i.val) ||| evTimer i := by
  have hor := Nat.two_pow_add_eq_or_of_lt (dueSum_lt (s := s) (now := now) i.val i.isLt.le) 1
  have hbit : ∀ j : TmrId, BitVec.ofNat 12 (2 ^ j.val) = evTimer j := by decide
  rw [Nat.mul_one] at hor
  rw [dueSum_succ, if_pos hdue, Nat.add_comm, hor, BitVec.ofNat_or, hbit, BitVec.or_comm]

theorem dueSum_succ_of_not_due (hdue : ¬ Due s.tm[i] now) : dueSum s now (i.val + 1) = dueSum s now i.val := by
  rw [dueSum_succ, if_neg hdue, Nat.add_zero]

theorem clockEvents_succ (c : CtxId) : clockEvents s now (c.val + 1) = clockEvents s now c.val ||| clockEvent s now c := by
  have hsplit : (∀ d : CtxId, d.val < c.val + 1 → tickedClock s now d = s.sv[d].st.clockState)
      ↔ (∀ d : CtxId, d.val < c.val → tickedClock s now d = s.sv[d].st.clockState)
        ∧ tickedClock s now c = s.sv[c].st.clockState := by
    constructor
    · exact fun h => ⟨fun d hd => h d (by omega), h c (Nat.lt_succ_self _)⟩
    · rintro ⟨hbelow, hc⟩ d hd
      rcases Nat.lt_succ_iff_lt_or_eq.mp hd with hlt | heq
      · exact hbelow d hlt
      · rw [Fin.ext heq, hc]
  simp only [clockEvents, clockEvent, hsplit, ite_and]
  split_ifs <;> rfl

theorem clockEvents_succ_of_le {n : Nat} (h : 2 ≤ n) : clockEvents s now (n + 1) = clockEvents s now n := by
  have hall : ∀ c : CtxId, c.val < n + 1 ↔ c.val < n := fun c => by omega
  simp only [clockEvents, hall]

theorem clockEvent_of_not_due (hdue : ¬ Due s.tm[settleTimer c] now) : clockEvent s now c = 0 :=
  if_pos (tickedClock_of_not_due hdue)

theorem tickedContext_of_not_due (hdue : ¬ Due s.tm[settleTimer c] now) : tickedContext s now c = s.sv[c] := by
  rw [tickedContext, tickedClock_of_not_due hdue]

/-- A timer is a settle timer or a general one (R170). -/
theorem settle_or_general (i : TmrId) : (∃ c, i = settleTimer c) ∨ 2 ≤ i.val := by
  by_cases h : i.val < 2
  · exact .inl ⟨⟨i.val, h⟩, rfl⟩
  · exact .inr (by omega)

/-- A timer that is not due changes at most its own record. -/
theorem tickedBelow_succ_of_not_due (hdue : ¬ Due s.tm[i] now) :
    tickedBelow s now (i.val + 1) = setTimer i (tickedTimer s.tm[i] now) (tickedBelow s now i.val) := by
  obtain ⟨hcontexts, hclocks⟩ : below s.sv (tickedContext s now) (i.val + 1) = below s.sv (tickedContext s now) i.val
      ∧ clockEvents s now (i.val + 1) = clockEvents s now i.val := by
    rcases settle_or_general i with ⟨c, rfl⟩ | hgen
    · refine ⟨below_succ_of_same (i := c) (tickedContext_of_not_due hdue), ?_⟩
      exact (clockEvents_succ c).trans (by rw [clockEvent_of_not_due hdue]; exact BitVec.or_zero)
    · exact ⟨below_succ_of_le hgen, clockEvents_succ_of_le hgen⟩
  rw [tickedBelow, eventsBelow, below_succ i, hcontexts, hclocks, dueSum_succ_of_not_due hdue]
  rfl

/-- A settle timer fires on the clock state its context still has. -/
theorem fire_settle_of_due {u : State} (hold : u.sv[c] = s.sv[c]) (hdue : Due s.tm[settleTimer c] now) :
    fire (settleTimer c) u = { u with
      sv := u.sv.set c.val (tickedContext s now c), evt := u.evt ||| clockEvent s now c ||| evTimer (settleTimer c) } := by
  rw [fire_settle, settleExpire_eq, tickedContext, clockEvent, tickedClock_of_due hdue]
  simp only [event, setSt, hold]

/-- A due timer changes its own record and fires. -/
theorem tickedBelow_succ_of_due (hdue : Due s.tm[i] now) :
    tickedBelow s now (i.val + 1) = fire i (setTimer i (tickedTimer s.tm[i] now) (tickedBelow s now i.val)) := by
  rw [tickedBelow, eventsBelow, below_succ i, ofNat_dueSum_succ_of_due hdue]
  rcases settle_or_general i with ⟨c, rfl⟩ | hgen
  · have hold : (setTimer (settleTimer c) (tickedTimer s.tm[settleTimer c] now) (tickedBelow s now c.val)).sv[c] = s.sv[c] :=
      below_get_self c
    have hfire := fire_settle_of_due hold hdue
    have hcontexts : below s.sv (tickedContext s now) ((settleTimer c).val + 1)
        = (below s.sv (tickedContext s now) c.val).set c.val (tickedContext s now c) := below_succ c
    have hclocks : clockEvents s now ((settleTimer c).val + 1) = clockEvents s now c.val ||| clockEvent s now c :=
      clockEvents_succ c
    refine Eq.trans ?_ hfire.symm
    rw [hcontexts, hclocks]
    simp only [tickedBelow, eventsBelow, setTimer]
    ac_rfl
  · rw [fire_general hgen, below_succ_of_le hgen, clockEvents_succ_of_le hgen, BitVec.or_assoc, BitVec.or_comm (evTimer i)]
    simp only [event, tickedBelow, eventsBelow, setTimer, BitVec.or_assoc]

theorem firedBelow_succ_of_due (hdue : Due s.tm[i] now) : firedBelow s now (i.val + 1) = true :=
  decide_eq_true ⟨i, Nat.lt_succ_self _, hdue⟩

theorem firedBelow_succ_of_not_due (hdue : ¬ Due s.tm[i] now) : firedBelow s now (i.val + 1) = firedBelow s now i.val := by
  refine decide_eq_decide.mpr (exists_congr fun j => and_congr_left fun hj => ?_)
  have hne : j.val ≠ i.val := fun h => hdue (Fin.ext h ▸ hj)
  omega

end

end Sys2Proof.Machine
end

section
/-! SUPPORT. The command `TM.TICK` (R178): the visit of all timers, or its end at the first one that raises, and the soonest deadline. -/

namespace Sys2Proof.Machine

section
variable {s : State} {now : Nat} {i : TmrId}

theorem tickedBelow_timer (i : TmrId) : (tickedBelow s now i.val).tm[i] = s.tm[i] := below_get_self i

/-- The visit of one timer takes the state below it to the state below the next. -/
theorem tickOne_tickedBelow (h : Ticks s.tm[i] now) :
    tickOne now (tickedBelow s now i.val, firedBelow s now i.val) i
      = .ok (tickedBelow s now (i.val + 1), firedBelow s now (i.val + 1)) := by
  have hrec := tickedBelow_timer (s := s) (now := now) i
  by_cases hdue : Due s.tm[i] now
  · rw [tickOne_of_due (by rw [hrec]; exact hdue), hrec, expiredTimer_of_ticks hdue h, ok_bind, ← tickedTimer_of_due hdue,
      tickedBelow_succ_of_due hdue, firedBelow_succ_of_due hdue]
    rfl
  · rw [tickedBelow_succ_of_not_due hdue, firedBelow_succ_of_not_due hdue]
    by_cases hdrop : Dropped s.tm[i]
    · rw [tickOne_of_dropped (by rw [hrec]; exact hdrop), disarm, hrec, tickedTimer_of_dropped hdrop]
    · rw [tickOne_of_idle (by rw [hrec]; exact hdrop) (by rw [hrec]; exact hdue), tickedTimer_of_idle hdrop hdue, ← hrec,
        setTimer_get_self]

theorem tickedBelow_zero : tickedBelow s now 0 = s := by
  have hevents : eventsBelow s now 0 = 0 := by
    rw [eventsBelow, clockEvents, if_pos fun _ h => absurd h (Nat.not_lt_zero _)]
    exact BitVec.or_zero
  rw [tickedBelow, below_zero, below_zero, hevents, BitVec.ofNat_eq_ofNat, BitVec.or_zero]

theorem firedBelow_zero : firedBelow s now 0 = false := decide_eq_false fun ⟨_, h, _⟩ => Nat.not_lt_zero _ h

theorem allTimers_take_succ (i : TmrId) : allTimers.take (i.val + 1) = allTimers.take i.val ++ [i] := by
  revert i; decide

theorem allTimers_split (i : TmrId) : allTimers = allTimers.take i.val ++ i :: allTimers.drop (i.val + 1) := by
  revert i; decide

/-- The visit of the timers below an index, none of which ends the tick. -/
theorem foldTicks_take {n : Nat} (hn : n ≤ 8) (h : ∀ i : TmrId, i.val < n → Ticks s.tm[i] now) :
    (allTimers.take n).foldlM (tickOne now) (s, false) = .ok (tickedBelow s now n, firedBelow s now n) := by
  induction n with
  | zero =>
    rw [tickedBelow_zero, firedBelow_zero]
    rfl
  | succ n ih =>
    have hprefix := ih (by omega) fun i hi => h i (by omega)
    have hstep := tickOne_tickedBelow (h ⟨n, hn⟩ (Nat.lt_succ_self n))
    rw [allTimers_take_succ ⟨n, hn⟩, List.foldlM_append, hprefix, ok_bind, List.foldlM_cons, hstep]
    rfl

theorem foldTicks_of_ticks (h : ∀ i : TmrId, Ticks s.tm[i] now) :
    allTimers.foldlM (tickOne now) (s, false) = .ok (tickedBelow s now 8, firedBelow s now 8) :=
  foldTicks_take (Nat.le_refl 8) fun i _ => h i

/-- The first timer that raises ends the tick. -/
theorem foldTicks_of_error {e : Err} (h : ∀ j : TmrId, j < i → Ticks s.tm[j] now) (hdue : Due s.tm[i] now)
    (he : expiredTimer s.tm[i] now = .error e) : allTimers.foldlM (tickOne now) (s, false) = .error e := by
  have hrec := tickedBelow_timer (s := s) (now := now) i
  rw [allTimers_split i, List.foldlM_append, foldTicks_take i.isLt.le h, ok_bind, List.foldlM_cons,
    tickOne_of_due (by rw [hrec]; exact hdue), hrec, he, error_bind, error_bind]

end

/-! After all timers. -/

theorem firedBelow_all {s : State} {now : Nat} : firedBelow s now 8 = true ↔ ∃ i : TmrId, Due s.tm[i] now := by
  simp only [firedBelow, decide_eq_true_eq, Fin.is_lt, true_and]

theorem eventsBelow_all (s : State) (now : Nat) : eventsBelow s now 8 = tickEvents s now := by
  have hall : (∀ c : CtxId, c.val < 8 → tickedClock s now c = s.sv[c].st.clockState)
      ↔ tickedClock s now 0 = s.sv[(0 : CtxId)].st.clockState ∧ tickedClock s now 1 = s.sv[(1 : CtxId)].st.clockState := by
    rw [← Fin.forall_fin_two (p := fun c : CtxId => tickedClock s now c = s.sv[c].st.clockState)]
    exact forall_congr' fun c => forall_prop_of_true (by omega)
  simp only [eventsBelow, clockEvents, tickEvents, hall]
  rfl

/-! The soonest deadline. -/

/-- The timer counts for `TM_NEXT`. -/
abbrev Running (t : Timer) : Prop := t.armed = true ∧ t.stopPending = false

/-- One timer's part of `nextTimeout`. -/
def sooner (s : State) (m : Nat) (i : TmrId) : Nat :=
  if s.tm[i].armed && !s.tm[i].stopPending then min m s.tm[i].deadlineUs.toNat else m

theorem nextTimeout_eq (s : State) : nextTimeout s = allTimers.foldl (sooner s) (2 ^ 64 - 1) := rfl

theorem sooner_of_running {s : State} {i : TmrId} (h : Running s.tm[i]) (m : Nat) :
    sooner s m i = min m s.tm[i].deadlineUs.toNat := if_pos (by simpa using h)

theorem sooner_of_not_running {s : State} {i : TmrId} (h : ¬ Running s.tm[i]) (m : Nat) : sooner s m i = m :=
  if_neg (by simpa using h)

/-- The fold stays at or below its start and the deadlines of the running timers, and is one of these. -/
theorem foldl_sooner (s : State) (is : List TmrId) (m : Nat) :
    is.foldl (sooner s) m ≤ m
      ∧ (∀ i ∈ is, Running s.tm[i] → is.foldl (sooner s) m ≤ s.tm[i].deadlineUs.toNat)
      ∧ (is.foldl (sooner s) m = m ∨ ∃ i ∈ is, Running s.tm[i] ∧ is.foldl (sooner s) m = s.tm[i].deadlineUs.toNat) := by
  induction is generalizing m with
  | nil => exact ⟨Nat.le_refl m, by simp, .inl rfl⟩
  | cons i is ih =>
    obtain ⟨hle, hall, hone⟩ := ih (sooner s m i)
    rw [List.foldl_cons, List.forall_mem_cons, List.exists_mem_cons_iff]
    by_cases hrun : Running s.tm[i]
    · have hmin := sooner_of_running hrun m
      refine ⟨by omega, ⟨fun _ => by omega, hall⟩, ?_⟩
      rcases hone with heq | hex
      · rcases Nat.le_total m s.tm[i].deadlineUs.toNat with h | h
        · exact .inl (by omega)
        · exact .inr (.inl ⟨hrun, by omega⟩)
      · exact .inr (.inr hex)
    · have hsame := sooner_of_not_running hrun m
      rw [hsame] at hle hall hone ⊢
      exact ⟨hle, ⟨fun h => absurd h hrun, hall⟩, hone.imp id .inr⟩

/-- `TM_NEXT` after a tick. -/
def nextReg (s : State) : Reg := BitVec.ofNat 64 (nextTimeout s)

theorem nextReg_toNat (s : State) : (nextReg s).toNat = nextTimeout s := by
  obtain ⟨hle, -, -⟩ := foldl_sooner s allTimers (2 ^ 64 - 1)
  rw [← nextTimeout_eq] at hle
  rw [nextReg, BitVec.toNat_ofNat]
  exact Nat.mod_eq_of_lt (by omega)

theorem mem_allTimers (i : TmrId) : i ∈ allTimers := by
  revert i; decide

theorem nextReg_le {s : State} {i : TmrId} (h : Running s.tm[i]) : (nextReg s).toNat ≤ s.tm[i].deadlineUs.toNat := by
  obtain ⟨-, hall, -⟩ := foldl_sooner s allTimers (2 ^ 64 - 1)
  rw [nextReg_toNat, nextTimeout_eq]
  exact hall i (mem_allTimers i) h

theorem nextReg_cases (s : State) :
    nextReg s = 0xFFFFFFFFFFFFFFFF
      ∨ ∃ i : TmrId, s.tm[i].armed = true ∧ s.tm[i].stopPending = false ∧ nextReg s = s.tm[i].deadlineUs := by
  obtain ⟨-, -, hmax | ⟨i, -, ⟨harmed, hgoing⟩, heq⟩⟩ := foldl_sooner s allTimers (2 ^ 64 - 1)
  · rw [← nextTimeout_eq] at hmax
    exact .inl (by rw [nextReg, hmax]; rfl)
  · rw [← nextTimeout_eq, ← nextReg_toNat] at heq
    exact .inr ⟨i, harmed, hgoing, BitVec.eq_of_toNat_eq heq⟩

/-! The command. -/

/-- The pseudocode of `TM.TICK` (R178). -/
def tmTickBody (a : TiReg) : Body := fun s => do
  let now := tiNat s a
  ensure (decide (s.nowUs.toNat ≤ now)) .operand
  let (s, fired) ← allTimers.foldlM (tickOne now) ({ s with nowUs := BitVec.ofNat 64 now }, false)
  let next := BitVec.ofNat 64 (nextTimeout s)
  return ({ s with tmNext := next, dout0 := next }, fired)

theorem exec_tmTick (a : TiReg) (s : State) : exec (.tmTick a) s = command (tmTickBody a) s := rfl

/-- The state a tick begins its visits with. -/
def atTime (t : Reg) (s : State) : State := { s with nowUs := t }

section
variable {a : TiReg} {s : State}

theorem tmTickBody_of_back (h : s.ti[a].toNat < s.nowUs.toNat) : tmTickBody a s = .error .operand := by
  have hcheck : decide (s.nowUs.toNat ≤ tiNat s a) = false := decide_eq_false (Nat.not_le_of_lt h)
  rw [tmTickBody]
  dsimp only
  rw [ensure_of_false hcheck, error_bind]

/-- A tick whose time does not go back ends as the visit of the timers does. -/
theorem tmTickBody_of_forward (h : s.nowUs.toNat ≤ s.ti[a].toNat) :
    tmTickBody a s = (do
      let (u, fired) ← allTimers.foldlM (tickOne s.ti[a].toNat) (atTime s.ti[a] s, false)
      return ({ u with tmNext := nextReg u, dout0 := nextReg u }, fired)) := by
  have hcheck : decide (s.nowUs.toNat ≤ tiNat s a) = true := decide_eq_true h
  rw [tmTickBody]
  dsimp only
  rw [ensure_of_true hcheck, ok_bind, tiNat, BitVec.ofNat_toNat, BitVec.setWidth_eq]
  rfl

theorem tmTick_raises (i : TmrId) {e : Err} (hnow : s.nowUs.toNat ≤ s.ti[a].toNat)
    (hfirst : ∀ j : TmrId, j < i → Ticks s.tm[j] s.ti[a].toNat) (hdue : Due s.tm[i] s.ti[a].toNat)
    (he : expiredTimer s.tm[i] s.ti[a].toNat = .error e) : Raises (.tmTick a) (errCode e) s := by
  have hfold := foldTicks_of_error (s := atTime s.ti[a] s) hfirst hdue he
  exact raises_of_error (exec_tmTick a s) (by rw [tmTickBody_of_forward hnow, hfold, error_bind])

/-- The state after a tick. -/
def ticked (s : State) (t : Reg) : State :=
  let u := tickedBelow (atTime t s) t.toNat 8
  { u with tmNext := nextReg u, dout0 := nextReg u }

theorem tmTick_completes (hnow : s.nowUs.toNat ≤ s.ti[a].toNat) (h : ∀ i : TmrId, Ticks s.tm[i] s.ti[a].toNat) :
    Completes (.tmTick a) (firedBelow s s.ti[a].toNat 8) s (ticked s s.ti[a]) := by
  have hfold := foldTicks_of_ticks (s := atTime s.ti[a] s) h
  exact completes_of_ok (exec_tmTick a s) (by rw [tmTickBody_of_forward hnow, hfold, ok_bind]; rfl) rfl

end

/-- Settles O60: the visits of a tick one after the other are the state `tickedBelow`; a timer that raises is reached with the
timers before it visited. -/
theorem timerTick : Obligations.TimerTick := by
  unfold Obligations.TimerTick
  intro a s
  refine ⟨decode_commandWord rfl, fun hback => ?_, fun i hnow hfirst => ⟨fun hcfg => ?_, fun hovf => ?_⟩, fun hnow hticks => ?_⟩
  · exact raises_of_error (exec_tmTick a s) (tmTickBody_of_back hback)
  · exact tmTick_raises i hnow hfirst hcfg.1 (expiredTimer_of_noPeriod hcfg)
  · exact tmTick_raises i hnow hfirst hovf.1 (expiredTimer_of_tooFar hovf)
  · have hdone := tmTick_completes hnow hticks
    have hrec : ∀ i : TmrId, (ticked s s.ti[a]).tm[i] = tickedTimer s.tm[i] s.ti[a].toNat := fun i => below_get_of_lt i.isLt
    refine ⟨(ticked s s.ti[a]).tm, (ticked s s.ti[a]).sv, (ticked s s.ti[a]).tmNext, _, fun i => ?_, fun c => ?_,
      ⟨fun i harmed hgoing => ?_, ?_⟩, firedBelow_all, ?_⟩
    · rw [hrec]
      exact ⟨tickedTimer_of_dropped, fun hdue => tickedTimer_of_due hdue ▸ firedTimer_firesTo hdue (hticks i), tickedTimer_of_idle⟩
    · exact below_get_of_lt (by omega)
    · exact nextReg_le ⟨harmed, hgoing⟩
    · exact nextReg_cases (tickedBelow (atTime s.ti[a] s) s.ti[a].toNat 8)
    · rw [← eventsBelow_all]
      exact hdone

end Sys2Proof.Machine
end

section
/-! SUPPORT. The Filter unit (R190 to R196): its two commands, and a filter run over a list of samples. -/

namespace Sys2Proof.Machine

/-! The commands (R195, R196). -/

theorem exec_fltReset (c : CtxId) (f : FltId) (s : State) :
    exec (.fltReset c f) s = command (plain fun s => setFlt c f (fltReset s.sv[c].flt[f]) s) s := rfl

/-- Settles O32: `fltReset` is the record update of R193. -/
theorem filterReset : Obligations.FilterReset := by
  unfold Obligations.FilterReset
  intro c f s
  exact ⟨decode_commandWord rfl, completes_plain (exec_fltReset c f s) rfl⟩

/-- The pseudocode of `FLT.STEP` (R196). -/
def fltStepBody (c : CtxId) (f : FltId) (a d : TiReg) : Body := fun s => do
  let (F, out) ← fltStep s.sv[c].flt[f] s.ti[a]
  match out with
  | some v => return (setTi d v (setFlt c f F s), true)
  | none => return (setFlt c f F s, false)

theorem exec_fltStep (c : CtxId) (f : FltId) (a d : TiReg) (s : State) :
    exec (.fltStep c f a d) s = command (fltStepBody c f a d) s := rfl

section
variable {c : CtxId} {f : FltId} {a d : TiReg} {s : State}

theorem fltStepBody_of_error {e : Err} (h : fltStep s.sv[c].flt[f] s.ti[a] = .error e) : fltStepBody c f a d s = .error e := by
  rw [fltStepBody, h, error_bind]

theorem fltStepBody_of_none {G : Filter} (h : fltStep s.sv[c].flt[f] s.ti[a] = .ok (G, none)) :
    fltStepBody c f a d s = .ok (setFlt c f G s, false) := by
  rw [fltStepBody, h, ok_bind]
  rfl

theorem fltStepBody_of_some {G : Filter} {y : TimeInterval} (h : fltStep s.sv[c].flt[f] s.ti[a] = .ok (G, some y)) :
    fltStepBody c f a d s = .ok (setTi d y (setFlt c f G s), true) := by
  rw [fltStepBody, h, ok_bind]
  rfl

end

/-- Settles O33: the command ends as `fltStep` does, which fails for a period of 0 or an overflowing window sum and otherwise steps
the filter. -/
theorem filterStep : Obligations.FilterStep := by
  unfold Obligations.FilterStep
  intro c f a d s
  have hexec := exec_fltStep c f a d s
  refine ⟨decode_commandWord rfl, fun hzero => ?_, fun hperiod hovf => ?_, fun hperiod hfits => ?_⟩
  · exact raises_of_error hexec (fltStepBody_of_error (fltStep_cfg _ _ hzero))
  · exact raises_of_error hexec (fltStepBody_of_error (fltStep_ovf _ _ hperiod hovf))
  · obtain ⟨G, o, hstep, hsteps⟩ := fltStep_steps _ _ hperiod hfits
    refine ⟨G, o, hsteps, fun hnone => ?_, fun y hsome => ?_⟩
    · exact completes_of_ok hexec (fltStepBody_of_none (hnone ▸ hstep)) rfl
    · exact completes_of_ok hexec (fltStepBody_of_some (hsome ▸ hstep)) rfl

/-! Runs. -/

/-- A run takes its first sample and goes on from the filter this leaves. -/
theorem runFilter_cons_of_ok {F G H : Filter} {x : TimeInterval} {xs : List TimeInterval} {o : Option TimeInterval}
    {os : List (Option TimeInterval)} (hx : fltStep F x = .ok (G, o)) (hxs : runFilter G xs = .ok (H, os)) :
    runFilter F (x :: xs) = .ok (H, o :: os) := by
  simp only [runFilter, hx, hxs]

theorem toNat_period_pos {F : Filter} (h : F.period ≠ 0) : 0 < F.period.toNat :=
  Nat.pos_of_ne_zero fun hzero => h (BitVec.eq_of_toNat_eq hzero)

end Sys2Proof.Machine
end

section
/-! SUPPORT. The lowpass filter over a list of samples (R191): the filter at the end, what it emits, and how its divisor ramps up. -/

namespace Sys2Proof.Machine

/-- The lowpass filter after a list of samples. -/
def lowpassAfter (F : Filter) (xs : List TimeInterval) : Filter := xs.foldl (fun G x => (lpStep G x).1) F

/-- What the lowpass filter emits for each of the samples. -/
def lowpassEmissions (F : Filter) : List TimeInterval → List TimeInterval
  | [] => []
  | x :: xs => (lpStep F x).1.y :: lowpassEmissions (lpStep F x).1 xs

theorem lowpassAfter_cons (F : Filter) (x : TimeInterval) (xs : List TimeInterval) :
    lowpassAfter F (x :: xs) = lowpassAfter (lpStep F x).1 xs := rfl

theorem lowpassEmissions_cons (F : Filter) (x : TimeInterval) (xs : List TimeInterval) :
    lowpassEmissions F (x :: xs) = (lpStep F x).1.y :: lowpassEmissions (lpStep F x).1 xs := rfl

@[simp] theorem lowpassEmissions_length (F : Filter) (xs : List TimeInterval) : (lowpassEmissions F xs).length = xs.length := by
  induction xs generalizing F with
  | nil => rfl
  | cons x xs ih => rw [lowpassEmissions_cons, List.length_cons, ih, List.length_cons]

/-- A sample of a lowpass filter always emits the value the filter then holds. -/
theorem fltStep_of_lowpass {F : Filter} (hw : F.windowed = false) (hp : F.period ≠ 0) (x : TimeInterval) :
    fltStep F x = .ok ((lpStep F x).1, some (lpStep F x).1.y) :=
  (fltStep_ok _ _ _ _).mpr ⟨hp, .inr ⟨hw, rfl⟩⟩

/-- `lowpassAfter` and `lowpassEmissions` are the run of the model's filter. -/
theorem runFilter_of_lowpass {F : Filter} (hw : F.windowed = false) (hp : F.period ≠ 0) (xs : List TimeInterval) :
    runFilter F xs = .ok (lowpassAfter F xs, (lowpassEmissions F xs).map some) := by
  induction xs generalizing F with
  | nil => rfl
  | cons x xs ih => exact runFilter_cons_of_ok (fltStep_of_lowpass hw hp x) (ih hw hp)

/-- A divisor that is not past the period goes up by one, to the period. -/
theorem lowpassDivisor_of_le {k period : Nat} (h : k ≤ period) : lowpassDivisor k period = min (k + 1) period := by
  unfold lowpassDivisor
  split <;> omega

theorem lowpassDivisor_pos (k : Nat) {period : Nat} (h : 0 < period) : 0 < lowpassDivisor k period := by
  unfold lowpassDivisor
  split <;> omega

/-- One sample raises the divisor by one, up to the period. -/
theorem lpStep_k {F : Filter} (hk : F.k.toNat ≤ F.period.toNat) (x : TimeInterval) :
    (lpStep F x).1.k.toNat = min (F.k.toNat + 1) F.period.toNat := by
  have hlt := F.period.isLt
  exact (BitVec.toNat_ofNat ..).trans (by rw [lowpassDivisor_of_le hk]; omega)

/-- The divisor after a list of samples. -/
theorem lowpassAfter_k {F : Filter} (hk : F.k.toNat ≤ F.period.toNat) (xs : List TimeInterval) :
    (lowpassAfter F xs).k.toNat = min (F.k.toNat + xs.length) F.period.toNat := by
  induction xs generalizing F with
  | nil => simpa [lowpassAfter] using hk
  | cons x xs ih =>
    have hperiod : (lpStep F x).1.period = F.period := rfl
    have hstep := lpStep_k hk x
    rw [lowpassAfter_cons, ih (by rw [hperiod]; omega), hperiod, hstep, List.length_cons]
    omega

/-- An empty filter holds its first sample, whatever it held before: the divisor is 1. -/
theorem lpStep_y_of_empty {F : Filter} (hk : F.k = 0) (hp : F.period ≠ 0) (x : TimeInterval) : (lpStep F x).1.y = x := by
  have hdivisor : lowpassDivisor F.k.toNat F.period.toNat = 1 := by
    have hpos := toNat_period_pos hp
    have hzero : F.k.toNat = 0 := congrArg BitVec.toNat hk
    rw [hzero, lowpassDivisor_of_le (Nat.zero_le _)]
    exact min_eq_left hpos
  simp [lpStep, hdivisor, lowpassValue, divT]

/-- The filter's new value lies in every range that holds the sample and, unless the filter was empty, its old value. -/
theorem lpStep_y_between {F : Filter} (hp : F.period ≠ 0) {lo hi : Int} {x : TimeInterval}
    (hy : F.k = 0 ∨ (lo ≤ F.y.toInt ∧ F.y.toInt ≤ hi)) (hx : lo ≤ x.toInt ∧ x.toInt ≤ hi) :
    lo ≤ (lpStep F x).1.y.toInt ∧ (lpStep F x).1.y.toInt ≤ hi := by
  rcases hy with hempty | hy
  · rwa [lpStep_y_of_empty hempty hp]
  · have hdivisor := lowpassDivisor_pos F.k.toNat (toNat_period_pos hp)
    have hmean := mean_between _ _ _ _ _ hdivisor (fits_toInt F.y) (fits_toInt x)
    have hvalue : (lpStep F x).1.y.toInt = lowpassValue (lowpassDivisor F.k.toNat F.period.toNat) F.y.toInt x.toInt :=
      raw64_toInt_of_fits _ hmean
    rw [hvalue]
    exact mean_between _ _ _ _ _ hdivisor hy hx

theorem lowpassEmissions_between {F : Filter} (hp : F.period ≠ 0) {lo hi : Int} {xs : List TimeInterval}
    (hy : F.k = 0 ∨ (lo ≤ F.y.toInt ∧ F.y.toInt ≤ hi)) (hxs : ∀ x ∈ xs, lo ≤ x.toInt ∧ x.toInt ≤ hi) :
    ∀ y ∈ lowpassEmissions F xs, lo ≤ y.toInt ∧ y.toInt ≤ hi := by
  induction xs generalizing F with
  | nil => exact fun y hmem => absurd hmem List.not_mem_nil
  | cons x xs ih =>
    obtain ⟨hx, hxs⟩ := List.forall_mem_cons.mp hxs
    have hnew := lpStep_y_between hp hy hx
    rw [lowpassEmissions_cons]
    exact List.forall_mem_cons.mpr ⟨hnew, ih (F := (lpStep F x).1) hp (.inr hnew) hxs⟩

theorem lowpassEmissions_head_of_empty {F : Filter} (hk : F.k = 0) (hp : F.period ≠ 0) (xs : List TimeInterval) :
    (lowpassEmissions F xs).head? = xs.head? := by
  cases xs with
  | nil => rfl
  | cons x xs => rw [lowpassEmissions_cons, lpStep_y_of_empty hk hp, List.head?_cons, List.head?_cons]

/-- Settles O34: each clause is a fact about `lowpassAfter` or `lowpassEmissions`, by induction on the samples. -/
theorem lowpassRampUp : Obligations.LowpassRampUp := by
  unfold Obligations.LowpassRampUp
  intro F xs hw hp hk
  have hzero : F.k.toNat = 0 := congrArg BitVec.toNat hk
  have hramp := lowpassAfter_k (F := F) (by omega) xs
  rw [hzero, Nat.zero_add] at hramp
  exact ⟨lowpassAfter F xs, lowpassEmissions F xs, runFilter_of_lowpass hw hp xs, lowpassEmissions_length F xs, hramp,
    lowpassEmissions_head_of_empty hk hp xs, fun _ _ hxs => lowpassEmissions_between hp (.inl hk) hxs⟩

end Sys2Proof.Machine
end

section
/-! SUPPORT. The windowed filter over one window (R192): what its accumulators hold part of the way, and the sample that ends it. -/

namespace Sys2Proof.Machine

/-- The sum of a list of samples, over unbounded integers. -/
def sampleSum (xs : List TimeInterval) : Int := (xs.map fun x => x.toInt).sum

theorem sampleSum_snoc (xs : List TimeInterval) (x : TimeInterval) : sampleSum (xs ++ [x]) = sampleSum xs + x.toInt := by
  simp [sampleSum]

theorem SumsFit.fits_snoc {pre rest : List TimeInterval} {x : TimeInterval} (h : SumsFit (pre ++ x :: rest)) :
    Fits (sampleSum (pre ++ [x])) := by
  rw [List.append_cons] at h
  simpa only [List.take_left, sampleSum] using h (pre ++ [x]).length (by simp)

/-- `mn` is the least of the samples. -/
def LeastOf (mn : TimeInterval) (xs : List TimeInterval) : Prop := mn ∈ xs ∧ ∀ x ∈ xs, mn.toInt ≤ x.toInt

theorem leastOf_singleton (x : TimeInterval) : LeastOf x [x] := by
  simp [LeastOf]

theorem leastOf_snoc {m mn x : TimeInterval} {xs : List TimeInterval} (h : LeastOf m xs) (hmn : mn.toInt = min m.toInt x.toInt) :
    LeastOf mn (xs ++ [x]) := by
  obtain ⟨hmem, hle⟩ := h
  constructor
  · rcases Int.le_total m.toInt x.toInt with hmx | hxm
    · have hm : mn = m := BitVec.eq_of_toInt_eq (by omega)
      exact List.mem_append_left _ (hm ▸ hmem)
    · have hx : mn = x := BitVec.eq_of_toInt_eq (by omega)
      exact List.mem_append_right _ (List.mem_singleton.mpr hx)
  · intro z hz
    rcases List.mem_append.mp hz with hz | hz
    · have := hle z hz
      omega
    · rw [List.mem_singleton.mp hz]
      omega

/-- The accumulators of a windowed filter hold the samples of the window so far; a window that has none yet says nothing of them. -/
structure Accumulates (F : Filter) (xs : List TimeInterval) : Prop where
  count : F.k.toNat = xs.length
  least : xs ≠ [] → LeastOf F.min xs
  total : xs ≠ [] → F.sum.toInt = sampleSum xs

/-- The filter after a sample that does not end its window (R192). -/
def collected (F : Filter) (mn mx sm : TimeInterval) : Filter := { F with k := F.k + 1, min := mn, max := mx, sum := sm }

theorem accumulates_of_empty {F : Filter} (hk : F.k = 0) : Accumulates F [] :=
  ⟨congrArg BitVec.toNat hk, fun h => absurd rfl h, fun h => absurd rfl h⟩

/-- What a window of these samples emits at its end: the mean for `FL_DIST = 1`, otherwise the minimum. -/
def WindowValue (dist : BitVec 16) (xs : List TimeInterval) (y : TimeInterval) : Prop :=
  (dist = 1 → y.toInt = (sampleSum xs).tdiv xs.length) ∧ (dist ≠ 1 → LeastOf y xs)

section
variable {F : Filter} {pre : List TimeInterval} {x mn sm : TimeInterval}

theorem Accumulates.empty_iff (h : Accumulates F pre) : F.k = 0 ↔ pre = [] := by
  rw [← List.length_eq_zero_iff, ← h.count]
  exact BitVec.toNat_inj.symm

/-- The minimum after one more sample, as `FilterSteps` says it. -/
theorem Accumulates.least_snoc (h : Accumulates F pre) (hmn : mn.toInt = if F.k = 0 then x.toInt else min F.min.toInt x.toInt) :
    LeastOf mn (pre ++ [x]) := by
  by_cases hpre : pre = []
  · rw [if_pos (h.empty_iff.mpr hpre)] at hmn
    rw [hpre, BitVec.eq_of_toInt_eq hmn]
    exact leastOf_singleton x
  · rw [if_neg (h.empty_iff.not.mpr hpre)] at hmn
    exact leastOf_snoc (h.least hpre) hmn

/-- The sum after one more sample, as `FilterSteps` says it. -/
theorem Accumulates.total_snoc (h : Accumulates F pre) (hsm : sm.toInt = if F.k = 0 then x.toInt else F.sum.toInt + x.toInt) :
    sm.toInt = sampleSum (pre ++ [x]) := by
  by_cases hpre : pre = []
  · rw [hsm, if_pos (h.empty_iff.mpr hpre), hpre]
    simp [sampleSum]
  · rw [hsm, if_neg (h.empty_iff.not.mpr hpre), sampleSum_snoc, h.total hpre]

theorem Accumulates.not_overflows (h : Accumulates F pre) (hfits : Fits (sampleSum (pre ++ [x]))) : ¬ FilterOverflows F x := by
  rintro ⟨-, hk, hbig⟩
  rw [sampleSum_snoc, ← h.total (h.empty_iff.not.mp hk)] at hfits
  exact hbig hfits

/-- One sample into a window that can take it: the new minimum and sum are those of the samples so far, and the window ends or goes on. -/
theorem Accumulates.step (h : Accumulates F pre) (hw : F.windowed = true) (hp : F.period ≠ 0)
    (hfits : Fits (sampleSum (pre ++ [x]))) :
    (F.period.toNat ≤ pre.length + 1 → ∃ y, WindowValue F.dist (pre ++ [x]) y
        ∧ fltStep F x = .ok ({ F with y := y, k := 0, min := 0, max := 0, sum := 0 }, some y))
    ∧ (pre.length + 1 < F.period.toNat → ∃ mn mx sm, Accumulates (collected F mn mx sm) (pre ++ [x])
        ∧ fltStep F x = .ok (collected F mn mx sm, none)) := by
  obtain ⟨G, o, hstep, hsteps⟩ := fltStep_steps F x hp (h.not_overflows hfits)
  rw [FilterSteps, if_pos hw] at hsteps
  obtain ⟨mn, mx, sm, hmn, -, hsm, hend⟩ := hsteps
  have hleast := h.least_snoc hmn
  have htotal := h.total_snoc hsm
  have hcount := h.count
  constructor
  · intro hlast
    rw [if_pos (by omega)] at hend
    obtain ⟨y, hy, rfl, rfl⟩ := hend
    refine ⟨y, ⟨fun hdist => ?_, fun hdist => ?_⟩, hstep⟩
    · rw [hy, if_pos hdist, htotal, hcount, List.length_append, List.length_singleton]
      norm_cast
    · rw [if_neg hdist] at hy
      rwa [BitVec.eq_of_toInt_eq hy]
  · intro hmore
    rw [if_neg (by omega)] at hend
    obtain ⟨rfl, rfl⟩ := hend
    have hlt := F.period.isLt
    have hnext : (F.k + 1).toNat = (pre ++ [x]).length := by
      rw [BitVec.toNat_add_of_lt (by simp; omega), hcount]
      simp
    exact ⟨mn, mx, sm, ⟨hnext, fun _ => hleast, fun _ => htotal⟩, hstep⟩

end

/-- The rest of a window, from any point of it: nothing until its last sample, then the value of the whole window. -/
theorem runFilter_of_window {F : Filter} {pre : List TimeInterval} (x : TimeInterval) (rest : List TimeInterval)
    (hacc : Accumulates F pre) (hw : F.windowed = true) (hp : F.period ≠ 0)
    (hlen : pre.length + (rest.length + 1) = F.period.toNat) (hsums : SumsFit (pre ++ x :: rest)) :
    ∃ y, WindowValue F.dist (pre ++ x :: rest) y
      ∧ runFilter F (x :: rest) = .ok ({ F with y := y, k := 0, min := 0, max := 0, sum := 0 },
          List.replicate rest.length none ++ [some y]) := by
  induction rest generalizing F pre x with
  | nil =>
    obtain ⟨y, hvalue, hstep⟩ := (hacc.step hw hp hsums.fits_snoc).1 hlen.ge
    exact ⟨y, hvalue, runFilter_cons_of_ok hstep rfl⟩
  | cons x' rest ih =>
    rw [List.length_cons] at hlen
    obtain ⟨mn, mx, sm, hnext, hstep⟩ := (hacc.step hw hp hsums.fits_snoc).2 (by omega)
    have hlen' : (pre ++ [x]).length + (rest.length + 1) = F.period.toNat := by
      rw [List.length_append, List.length_singleton]
      omega
    rw [List.append_cons] at hsums ⊢
    obtain ⟨y, hvalue, hrun⟩ := ih x' hnext hw hp hlen' hsums
    exact ⟨y, hvalue, runFilter_cons_of_ok hstep hrun⟩

/-- Settles O35: a filter with `FL_K = 0` is at the start of its window, so the run is that of a whole window. -/
theorem windowEmitsOnce : Obligations.WindowEmitsOnce := by
  unfold Obligations.WindowEmitsOnce
  intro F xs hw hp hk hlen hsums
  cases xs with
  | nil => exact absurd hlen (toNat_period_pos hp).ne
  | cons x rest =>
    have hlen : ([] : List TimeInterval).length + (rest.length + 1) = F.period.toNat := (Nat.zero_add _).trans hlen
    obtain ⟨y, ⟨hmean, hleast⟩, hrun⟩ := runFilter_of_window x rest (accumulates_of_empty hk) hw hp hlen hsums
    exact ⟨y, hrun, hmean, hleast⟩

end Sys2Proof.Machine
end

section
/-! SUPPORT. Byte ranges of `BUF` as the statements describe them (R72, R110 to R117): a list of bytes as the table of its positions, a
store of it as `StoredAs`, and stores one behind the other as one. -/

namespace Sys2Proof.Machine

/-! A value's bytes and the bytes read from `BUF` as tables. -/

/-- The bytes of a value by position (R72). -/
theorem bytesOf_eq_map (v n : Nat) : bytesOf v n = (List.range n).map (beByte n v) := by
  induction n with
  | zero => rfl
  | succ n ih =>
    rw [bytesOf, ih, List.range_succ_eq_map, List.map_cons, List.map_map]
    congr 1
    refine List.map_congr_left fun k _ => ?_
    simp only [Function.comp_apply, beByte, Nat.succ_eq_add_one, show n + 1 - 1 - (k + 1) = n - 1 - k by omega]

theorem readBytes_eq_map (m : Memory) (a n : Nat) : readBytes m a n = (List.range n).map fun k => readByte m (a + k) := by
  induction n generalizing a with
  | zero => rfl
  | succ n ih =>
    rw [readBytes, ih, List.range_succ_eq_map, List.map_cons, List.map_map]
    congr 1
    refine List.map_congr_left fun k _ => ?_
    simp only [Function.comp_apply, Nat.succ_eq_add_one, show a + 1 + k = a + (k + 1) by omega]

/-- Two nibbles side by side are the byte of R110. -/
theorem append_nibbles (hi lo : BitVec 4) : (hi ++ lo : BitVec 8) = BitVec.ofNat 8 (hi.toNat * 16 + lo.toNat) := by
  have hlo := lo.isLt
  have hhi := hi.isLt
  refine BitVec.eq_of_toNat_eq ?_
  rw [BitVec.toNat_append, BitVec.toNat_ofNat, ← Nat.shiftLeft_add_eq_or_of_lt hlo, Nat.shiftLeft_eq]
  omega

/-- The 34 header bytes by position: the table of R110. -/
theorem headerBytes_eq_map (h : Header) : headerBytes h = (List.range 34).map (headerByteAt h) := by
  rw [headerBytes, append_nibbles, append_nibbles]
  rfl

/-- The Announce body after the origin timestamp by position: the table of R115 from its byte 10. -/
theorem announceBytes_eq_map (x : Announce) (t : Timestamp) (utc : BitVec 16) :
    announceBytes x utc = (List.range 20).map fun k => announceByteAt x t utc (10 + k) := rfl

/-! Stores. -/

/-- A store of a table of bytes. -/
theorem storedAs_map (m : Memory) {a n : Nat} (h : a + n ≤ 2048) (f : Nat → Byte) :
    StoredAs m (writeBytes m a ((List.range n).map f)) a n f := by
  intro x
  rw [readByte_writeBytes _ m a (by rwa [List.length_map, List.length_range])]
  by_cases hlo : a ≤ x
  · rw [if_pos hlo]
    by_cases hhi : x < a + n
    · rw [if_pos ⟨hlo, hhi⟩, List.getElem?_map, List.getElem?_range (by omega)]
      rfl
    · rw [if_neg (by omega), List.getElem?_eq_none (by rw [List.length_map, List.length_range]; omega)]
      rfl
  · rw [if_neg hlo, if_neg (by omega)]

theorem storedAs_value (m : Memory) {a n : Nat} (h : a + n ≤ 2048) (v : Nat) : StoredAs m (memWrite a n v m) a n (beByte n v) := by
  rw [memWrite, bytesOf_eq_map]
  exact storedAs_map m h _

theorem writeBytes_append (m : Memory) (a : Nat) (bs cs : List Byte) :
    writeBytes m a (bs ++ cs) = writeBytes (writeBytes m a bs) (a + bs.length) cs := by
  induction bs generalizing m a with
  | nil => rfl
  | cons b bs ih =>
    rw [List.cons_append, writeBytes, ih, writeBytes, List.length_cons, Nat.add_assoc, Nat.add_comm 1]

namespace StoredAs

variable {m m' m'' : Memory} {a n k : Nat} {f g F : Nat → Byte}

/-- A second store right behind the first: one store of the table `F` that both are parts of. -/
theorem append (h : StoredAs m m' a n f) (h' : StoredAs m' m'' (a + n) k g) (hf : ∀ j, j < n → F j = f j)
    (hg : ∀ j, j < k → F (n + j) = g j) : StoredAs m m'' a (n + k) F := by
  intro x
  rw [h' x, h x]
  by_cases hsecond : a + n ≤ x ∧ x < a + n + k
  · rw [if_pos hsecond, if_pos (by omega), ← hg _ (by omega), show n + (x - (a + n)) = x - a by omega]
  · rw [if_neg hsecond]
    by_cases hfirst : a ≤ x ∧ x < a + n
    · rw [if_pos hfirst, if_pos (by omega), hf _ (by omega)]
    · rw [if_neg hfirst, if_neg (by omega)]

/-- Inside the range the bytes are those of the table. -/
theorem readByte_inside (h : StoredAs m m' a n f) {j : Nat} (hj : j < n) : readByte m' (a + j) = f j := by
  rw [h (a + j), if_pos (by omega), Nat.add_sub_cancel_left]

/-- A value stored somewhere in the range is read back. -/
theorem memRead_inside (h : StoredAs m m' a n f) {off v : Nat} (hoff : off + k ≤ n) (hf : ∀ j, j < k → f (off + j) = beByte k v j) :
    memRead m' (a + off) k = v % 256 ^ k := by
  rw [memRead, readBytes_eq_map, ← bigEndian_bytesOf, bytesOf_eq_map]
  congr 1
  refine List.map_congr_left fun j hj => ?_
  have hj := List.mem_range.mp hj
  rw [Nat.add_assoc, h.readByte_inside (by omega), hf j hj]

end StoredAs

section
variable (m : Memory) {a : Nat}

/-- The header (R110). -/
theorem storedAs_header (h : a + 34 ≤ 2048) (x : Header) : StoredAs m (writeBytes m a (headerBytes x)) a 34 (headerByteAt x) := by
  rw [headerBytes_eq_map]
  exact storedAs_map m h _

/-- A Timestamp on the wire (R111): its three fields one behind the other. -/
theorem storedAs_timestamp (h : a + 10 ≤ 2048) (t : Timestamp) : StoredAs m (putTs a t m) a 10 (tsByteAt t) := by
  have hmsb := storedAs_value m (a := a) (n := 2) (by omega) t.secMsb.toNat
  have hsec := hmsb.append (F := tsByteAt t) (storedAs_value _ (n := 4) (by omega) t.sec.toNat) (fun j hj => if_pos hj)
    fun j hj => by rw [tsByteAt, if_neg (by omega), if_pos (by omega), Nat.add_sub_cancel_left]
  exact hsec.append (storedAs_value _ (n := 4) (by omega) t.ns.toNat) (fun _ _ => rfl)
    fun j hj => by rw [tsByteAt, if_neg (by omega), if_neg (by omega), Nat.add_sub_cancel_left]

/-- A port identity on the wire (R112). -/
theorem storedAs_portId (h : a + 10 ≤ 2048) (p : PortId) : StoredAs m (putPid a p m) a 10 (pidByteAt p) :=
  (storedAs_value m (n := 8) (by omega) p.cid.toNat).append (storedAs_value _ (n := 2) (by omega) p.port.toNat)
    (fun _ hj => if_pos hj) fun j hj => by rw [pidByteAt, if_neg (by omega), Nat.add_sub_cancel_left]

/-- A Timestamp and a port identity, the body of `PK.PD` (R224). -/
theorem storedAs_pdelay (h : a + 20 ≤ 2048) (t : Timestamp) (p : PortId) :
    StoredAs m (putPid (a + 10) p (putTs a t m)) a 20 fun k => if k < 10 then tsByteAt t k else pidByteAt p (k - 10) :=
  (storedAs_timestamp m (by omega) t).append (storedAs_portId _ (by omega) p) (fun _ hj => if_pos hj)
    fun j hj => by rw [if_neg (by omega), Nat.add_sub_cancel_left]

/-- The Announce body (R115): the origin timestamp and the 20 bytes after it. -/
theorem storedAs_announce (h : a + 30 ≤ 2048) (x : Announce) (t : Timestamp) (utc : BitVec 16) :
    StoredAs m (writeBytes (putTs a t m) (a + 10) (announceBytes x utc)) a 30 (announceByteAt x t utc) := by
  rw [announceBytes_eq_map x t utc]
  exact (storedAs_timestamp m (by omega) t).append (storedAs_map _ (by omega) _) (fun _ hj => if_pos hj) fun _ _ => rfl

/-- Byte `k` of a TLV (R117): type, length and value. -/
def tlvByteAt (x : Tlv) (value : Nat → Byte) (k : Nat) : Byte :=
  if k < 2 then beByte 2 x.type.toNat k else if k < 4 then beByte 2 x.len.toNat (k - 2) else value (k - 4)

theorem storedAs_tlv (x : Tlv) (h : a + (4 + x.len.toNat) ≤ 2048) (src : Memory) (v : Nat) :
    StoredAs m (writeBytes m a (bytesOf x.type.toNat 2 ++ bytesOf x.len.toNat 2 ++ readBytes src v x.len.toNat)) a (4 + x.len.toNat)
      (tlvByteAt x fun k => readByte src (v + k)) := by
  rw [writeBytes_append, writeBytes_append, readBytes_eq_map, List.length_append, bytesOf_length, bytesOf_length]
  have htype := storedAs_value m (a := a) (n := 2) (by omega) x.type.toNat
  have hlen := htype.append (F := tlvByteAt x fun k => readByte src (v + k)) (storedAs_value _ (n := 2) (by omega) x.len.toNat)
    (fun j hj => if_pos hj) fun j hj => by rw [tlvByteAt, if_neg (by omega), if_pos (by omega), Nat.add_sub_cancel_left]
  exact hlen.append (storedAs_map _ (by omega) _) (fun _ _ => rfl)
    fun j hj => by rw [tlvByteAt, if_neg (by omega), if_neg (by omega), Nat.add_sub_cancel_left]

end

end Sys2Proof.Machine
end

section
/-! SUPPORT. The checks of the `PK.*` and `UP.*` commands, and the registers loaded from bytes of `BUF`, by their values. -/

namespace Sys2Proof.Machine

/-! The arms of the dispatcher (`exec`) for these commands. -/

theorem exec_pkHdr (s : State) : exec .pkHdr s = execPkHdr s := rfl

theorem exec_upHdr (s : State) : exec .upHdr s = execUpHdr s := rfl

theorem exec_pkTs (a : TsReg) (s : State) : exec (.pkTs a) s = execPkTs a s := rfl

theorem exec_upTs (d : TsReg) (s : State) : exec (.upTs d) s = execUpTs d s := rfl

theorem exec_pkPd (a : TsReg) (p : PidReg) (s : State) : exec (.pkPd a p) s = execPkPd a p s := rfl

theorem exec_upPd (d : TsReg) (p : PidReg) (s : State) : exec (.upPd d p) s = execUpPd d p s := rfl

theorem exec_pkAnn (a : TsReg) (s : State) : exec (.pkAnn a) s = execPkAnn a s := rfl

theorem exec_upAnn (d : TsReg) (s : State) : exec (.upAnn d) s = execUpAnn d s := rfl

theorem exec_pkSig (p : PidReg) (s : State) : exec (.pkSig p) s = execPkSig p s := rfl

theorem exec_upSig (p : PidReg) (s : State) : exec (.upSig p) s = execUpSig p s := rfl

theorem exec_pkTlv (s : State) : exec .pkTlv s = execPkTlv s := rfl

theorem exec_upTlv (s : State) : exec .upTlv s = execUpTlv s := rfl

/-! A pseudocode is its checks in their order and then its copy of the state. -/

theorem bind_of_ok {α β : Type} {x : Result α} {f : α → Result β} {a : α} {r : Result β} (hx : x = .ok a) (hf : f a = r) :
    (x >>= f) = r := by
  rw [hx, ok_bind, hf]

theorem bind_of_error {α β : Type} {x : Result α} {f : α → Result β} {e : Err} (hx : x = .error e) : (x >>= f) = .error e := by
  rw [hx, error_bind]

section
variable {s : State} {off n : Nat}

theorem needWindow_of_inWindow (h : InWindow s off n) : needWindow s off n = .ok () :=
  (needWindow_ok s off n ()).mpr ((inWindow_prop s off n).mp h)

theorem needWindow_of_not_inWindow (h : ¬ InWindow s off n) : needWindow s off n = .error .bounds :=
  (needWindow_error s off n _).mpr ⟨(not_inWindow_prop s off n).mp h, rfl⟩

theorem needHeader_of_packed (h : s.win.hdrPacked = true) : needHeader s = .ok () := (needHeader_ok s ()).mpr h

theorem needHeader_of_unpacked (h : s.win.hdrPacked = false) : needHeader s = .error .seq := (needHeader_error s _).mpr ⟨h, rfl⟩

/-- A range of the window lies in `BUF` (R74). -/
theorem InWindow.le_bufBytes (h : InWindow s off n) : off + n ≤ 2048 := by
  obtain ⟨-, hlimit, -, hend⟩ := h
  omega

/-- A part of a range of the window lies in the window. -/
theorem InWindow.sub (h : InWindow s off n) {off' n' : Nat} (hlo : off ≤ off') (hhi : off' + n' ≤ off + n) : InWindow s off' n' := by
  obtain ⟨hvalid, hlimit, hbase, hend⟩ := h
  exact ⟨hvalid, hlimit, by omega, by omega⟩

end

/-! Loads. -/

section
variable (m : Memory) (off : Nat)

theorem memRead_lt (n : Nat) : memRead m off n < 256 ^ n := by
  induction n generalizing off with
  | zero => exact Nat.one_pos
  | succ n ih =>
    have hfirst : (readByte m off).toNat + 1 ≤ 256 := (readByte m off).isLt
    have hrest := ih (off + 1)
    calc memRead m off (n + 1) = (readByte m off).toNat * 256 ^ n + memRead m (off + 1) n := memRead_succ m off n
      _ < ((readByte m off).toNat + 1) * 256 ^ n := by rw [Nat.succ_mul]; omega
      _ ≤ 256 * 256 ^ n := Nat.mul_le_mul_right _ hfirst
      _ = 256 ^ (n + 1) := Nat.pow_succ'.symm

/-- A register as wide as the bytes it is loaded from holds their value. -/
theorem toNat_memRead (n : Nat) : (BitVec.ofNat (8 * n) (memRead m off n)).toNat = memRead m off n := by
  rw [BitVec.toNat_ofNat, Nat.pow_mul]
  exact Nat.mod_eq_of_lt (memRead_lt m off n)

theorem toNat_readByte : (readByte m off).toNat = memRead m off 1 := (memRead_one m off).symm

theorem toNat_highNibble : ((readByte m off).extractLsb' 4 4).toNat = memRead m off 1 / 16 := by
  have hlt := memRead_lt m off 1
  rw [BitVec.extractLsb'_toNat, Nat.shiftRight_eq_div_pow, toNat_readByte]
  omega

theorem toNat_lowNibble : ((readByte m off).extractLsb' 0 4).toNat = memRead m off 1 % 16 := by
  rw [BitVec.extractLsb'_toNat, Nat.shiftRight_zero, toNat_readByte]

end

/-! The words of the statements. -/

/-- A command has one outcome: one that has ended with success does not raise. -/
theorem not_raises_of_ok {i : Instr} {s t : State} (ht : Answers i s t) (hok : t.status.ok = true) (code : BitVec 8) :
    ¬ Raises i code s := fun hr => by
  obtain rfl := Host.Outcome.next.inj (hr.symm.trans ht)
  exact Bool.false_ne_true hok

/-- What a command answers that completes with the copy `t`. -/
def ended (s t : State) (valid : Bool) : State :=
  { t with cmdCnt := s.cmdCnt + 1, status := ⟨true, valid, t.status.lt, t.status.eq, 0⟩ }

@[simp] theorem ended_buf (s t : State) (valid : Bool) : (ended s t valid).buf = t.buf := rfl

theorem Completes.eq {i : Instr} {v : Bool} {s t u : State} (h : Completes i v s t) (hu : Answers i s u) : u = ended s t v :=
  Host.Outcome.next.inj (hu.symm.trans h)

end Sys2Proof.Machine
end

section
/-! SUPPORT. The header, Timestamp, Pdelay and Signalling commands of the Codec unit (R215 to R225, R238, R239). -/

namespace Sys2Proof.Machine

/-- The state that `PK.HDR` answers, but for `CMDCNT` and `STATUS`. -/
def packedHeader (s : State) : State :=
  { s with buf := writeBytes s.buf (base s) (headerBytes s.hdr), win := { s.win with hdrPacked := true } }

theorem pkHdr_completes {s : State} (hin : InWindow s (base s) 34) : Completes .pkHdr false s (packedHeader s) :=
  completes_of_ok (exec_pkHdr s) (bind_of_ok (needWindow_of_inWindow hin) rfl) rfl

theorem pkHdr_raises {s : State} (hout : ¬ InWindow s (base s) 34) : Raises .pkHdr 5 s :=
  raises_of_error (exec_pkHdr s) (bind_of_error (needWindow_of_not_inWindow hout))

/-- Settles O36: the one check is the window's, and the store is the table of R110. -/
theorem packHeader : Obligations.PackHeader := by
  unfold Obligations.PackHeader
  intro s
  exact ⟨by decide, pkHdr_raises, fun hin => ⟨_, storedAs_header s.buf hin.le_bufBytes s.hdr, pkHdr_completes hin⟩⟩

/-- Settles O37: each register is as wide as the bytes it is loaded from. -/
theorem unpackHeaderAndAnnounce : Obligations.UnpackHeaderAndAnnounce := by
  unfold Obligations.UnpackHeaderAndAnnounce
  intro s d b rd
  have hnum := fun off n => toNat_memRead s.buf (b + off) n
  have hbyte := fun off => toNat_readByte s.buf (b + off)
  refine ⟨by decide, decode_commandWord rfl, fun hout => ?_, fun hin => ⟨getHeader s.buf b, ?_, ?_⟩, fun hout => ?_,
    fun hin => ⟨getAnnounce s.buf b, getTs s.buf (b + 34), ?_, ?_⟩⟩
  · exact raises_of_error (exec_upHdr s) (bind_of_error (needWindow_of_not_inWindow hout))
  · exact completes_of_ok (exec_upHdr s) (bind_of_ok (needWindow_of_inWindow hin) rfl) rfl
  · exact ⟨toNat_highNibble _ b, toNat_lowNibble _ b, toNat_highNibble _ (b + 1), toNat_lowNibble _ (b + 1), hnum 2 2, hbyte 4,
      hnum 6 2, hnum 8 8, hnum 20 8, hnum 28 2, hnum 30 2, hbyte 32, hbyte 33⟩
  · exact raises_of_error (exec_upAnn d s) (bind_of_error (needWindow_of_not_inWindow hout))
  · exact completes_of_ok (exec_upAnn d s) (bind_of_ok (needWindow_of_inWindow hin) rfl) rfl
  · exact ⟨hnum 34 2, hnum 36 4, hnum 40 4, rfl, hnum 44 2, hbyte 47, hbyte 48, hbyte 49, hnum 50 2, hbyte 52, hnum 53 8, hnum 61 2,
      hbyte 63⟩

/-! The checks of `PK.TS` and `PK.PD`, in their order (R220, R224). -/

section
variable {α : Type} {s : State} {off n : Nat} {t : Timestamp} {r : Result α}

theorem bodyChecks_outside (hpacked : s.win.hdrPacked = true) (hout : ¬ InWindow s off n) :
    (do needHeader s; needWindow s off n; needWf t; r) = .error .bounds :=
  bind_of_ok (needHeader_of_packed hpacked) (bind_of_error (needWindow_of_not_inWindow hout))

theorem bodyChecks_illFormed (hpacked : s.win.hdrPacked = true) (hin : InWindow s off n) (hill : ¬ WellFormed t) :
    (do needHeader s; needWindow s off n; needWf t; r) = .error .operand :=
  bind_of_ok (needHeader_of_packed hpacked) (bind_of_ok (needWindow_of_inWindow hin) (bind_of_error (needWf_of_not_wellFormed hill)))

theorem bodyChecks_passed (hpacked : s.win.hdrPacked = true) (hin : InWindow s off n) (hwf : WellFormed t) :
    (do needHeader s; needWindow s off n; needWf t; r) = r :=
  bind_of_ok (needHeader_of_packed hpacked) (bind_of_ok (needWindow_of_inWindow hin) (bind_of_ok (needWf_of_wellFormed hwf) rfl))

end

/-- Settles O38: the header, the window and the Timestamp are checked in this order, and the stores are the tables of R111 and R112. -/
theorem packTimestampAndPdelay : Obligations.PackTimestampAndPdelay := by
  unfold Obligations.PackTimestampAndPdelay
  intro s a p b
  refine ⟨decode_commandWord rfl, decode_commandWord rfl, fun hunpacked => ?_, fun hpacked hout => ?_, fun hpacked hout => ?_,
    fun hpacked hin hill => ?_, fun hpacked hin hill => ?_, fun hpacked hin hwf => ?_, fun hpacked hin hwf => ?_⟩
  · have hseq := needHeader_of_unpacked hunpacked
    exact ⟨raises_of_error (exec_pkTs a s) (bind_of_error hseq), raises_of_error (exec_pkPd a p s) (bind_of_error hseq)⟩
  · exact raises_of_error (exec_pkTs a s) (bodyChecks_outside hpacked hout)
  · exact raises_of_error (exec_pkPd a p s) (bodyChecks_outside hpacked hout)
  · exact raises_of_error (exec_pkTs a s) (bodyChecks_illFormed hpacked hin hill)
  · exact raises_of_error (exec_pkPd a p s) (bodyChecks_illFormed hpacked hin hill)
  · exact ⟨_, storedAs_timestamp s.buf hin.le_bufBytes s.ts[a],
      completes_of_ok (exec_pkTs a s) (bodyChecks_passed hpacked hin hwf) rfl⟩
  · exact ⟨_, storedAs_pdelay s.buf hin.le_bufBytes s.ts[a] s.pid[p],
      completes_of_ok (exec_pkPd a p s) (bodyChecks_passed hpacked hin hwf) rfl⟩

/-- Settles O39: the one check is the window's, and each field is as wide as the bytes it is loaded from. -/
theorem unpackTimestampAndPdelay : Obligations.UnpackTimestampAndPdelay := by
  unfold Obligations.UnpackTimestampAndPdelay
  intro s d p b rd
  have hnum := fun off n => toNat_memRead s.buf (b + off) n
  refine ⟨decode_commandWord rfl, decode_commandWord rfl, fun hout => ?_, fun hout => ?_, getTs s.buf (b + 34), getPid s.buf (b + 44),
    hnum 34 2, hnum 36 4, hnum 40 4, rfl, hnum 44 8, hnum 52 2, fun hin => ?_, fun hin => ?_⟩
  · exact raises_of_error (exec_upTs d s) (bind_of_error (needWindow_of_not_inWindow hout))
  · exact raises_of_error (exec_upPd d p s) (bind_of_error (needWindow_of_not_inWindow hout))
  · exact completes_of_ok (exec_upTs d s) (bind_of_ok (needWindow_of_inWindow hin) rfl) rfl
  · exact completes_of_ok (exec_upPd d p s) (bind_of_ok (needWindow_of_inWindow hin) rfl) rfl

/-- Settles O41: `PK.SIG` checks the header and the window, `UP.SIG` the window. -/
theorem signallingTarget : Obligations.SignallingTarget := by
  unfold Obligations.SignallingTarget
  intro s p b
  refine ⟨decode_commandWord rfl, decode_commandWord rfl, fun hunpacked => ?_, fun hpacked hout => ?_, fun hout => ?_,
    fun hpacked hin => ?_, fun hin => ?_⟩
  · exact raises_of_error (exec_pkSig p s) (bind_of_error (needHeader_of_unpacked hunpacked))
  · exact raises_of_error (exec_pkSig p s) (bind_of_ok (needHeader_of_packed hpacked) (bind_of_error (needWindow_of_not_inWindow hout)))
  · exact raises_of_error (exec_upSig p s) (bind_of_error (needWindow_of_not_inWindow hout))
  · exact ⟨_, storedAs_portId s.buf hin.le_bufBytes s.pid[p],
      completes_of_ok (exec_pkSig p s) (bind_of_ok (needHeader_of_packed hpacked) (bind_of_ok (needWindow_of_inWindow hin) rfl)) rfl⟩
  · exact ⟨getPid s.buf (b + 34), toNat_memRead s.buf (b + 34) 8, toNat_memRead s.buf (b + 42) 2,
      completes_of_ok (exec_upSig p s) (bind_of_ok (needWindow_of_inWindow hin) rfl) rfl⟩

end Sys2Proof.Machine
end

section
/-! SUPPORT. The TLV commands (R242 to R244). -/

namespace Sys2Proof.Machine

/-- `BUF` after `PK.TLV`: type, length and the value bytes as they were before (R242). -/
def packedTlv (s : State) : Memory :=
  writeBytes s.buf s.win.ptr.toNat
    (bytesOf s.tlv.type.toNat 2 ++ bytesOf s.tlv.len.toNat 2 ++ readBytes s.buf s.tlv.vptr.toNat s.tlv.len.toNat)

section
variable {s : State}

theorem packedTlv_storedAs (h : InWindow s s.win.ptr.toNat (4 + s.tlv.len.toNat)) :
    StoredAs s.buf (packedTlv s) s.win.ptr.toNat (4 + s.tlv.len.toNat)
      (tlvByteAt s.tlv fun k => readByte s.buf (s.tlv.vptr.toNat + k)) :=
  storedAs_tlv s.buf s.tlv h.le_bufBytes s.buf s.tlv.vptr.toNat

theorem pkTlv_raises (h : ¬ InWindow s s.win.ptr.toNat (4 + s.tlv.len.toNat) ∨ 2048 < s.tlv.vptr.toNat + s.tlv.len.toNat) :
    Raises .pkTlv 5 s := by
  by_cases hin : InWindow s s.win.ptr.toNat (4 + s.tlv.len.toNat)
  · have hlong := h.resolve_left (not_not_intro hin)
    exact raises_of_error (exec_pkTlv s) (bind_of_ok (needWindow_of_inWindow hin)
      (bind_of_error (ensure_of_false (decide_eq_false (Nat.not_le_of_lt hlong)) _)))
  · exact raises_of_error (exec_pkTlv s) (bind_of_error (needWindow_of_not_inWindow hin))

theorem pkTlv_completes (hin : InWindow s s.win.ptr.toNat (4 + s.tlv.len.toNat)) (hsrc : s.tlv.vptr.toNat + s.tlv.len.toNat ≤ 2048) :
    Completes .pkTlv false s { s with
      buf := packedTlv s, win := { s.win with ptr := BitVec.ofNat 16 (s.win.ptr.toNat + 4 + s.tlv.len.toNat) } } :=
  completes_of_ok (exec_pkTlv s) (bind_of_ok (needWindow_of_inWindow hin)
    (bind_of_ok (ensure_of_true (decide_eq_true hsrc) _) rfl)) rfl

/-- A `PK.TLV` that has ended with success has passed its two checks. -/
theorem pkTlv_passed {t : State} (ht : Answers .pkTlv s t) (hok : t.status.ok = true) :
    InWindow s s.win.ptr.toNat (4 + s.tlv.len.toNat) ∧ s.tlv.vptr.toNat + s.tlv.len.toNat ≤ 2048 := by
  by_contra hfail
  rw [Classical.not_and_iff_not_or_not, Nat.not_le] at hfail
  exact not_raises_of_ok ht hok 5 (pkTlv_raises hfail)

/-- What `UP.TLV` loads when the TLV at the cursor is legal (R243): the place of the value fits its register. -/
theorem upTlv_completes (hin : InWindow s s.win.ptr.toNat 4) (htype : memRead s.buf s.win.ptr.toNat 2 ≠ 0)
    (hlen : memRead s.buf (s.win.ptr.toNat + 2) 2 ≠ 0)
    (hval : InWindow s (s.win.ptr.toNat + 4) (memRead s.buf (s.win.ptr.toNat + 2) 2)) :
    ∃ x : Tlv, x.type.toNat = memRead s.buf s.win.ptr.toNat 2 ∧ x.len.toNat = memRead s.buf (s.win.ptr.toNat + 2) 2
      ∧ x.vptr.toNat = s.win.ptr.toNat + 4
      ∧ Completes .upTlv false s { s with
          tlv := x
          win := { s.win with ptr := BitVec.ofNat 16 (s.win.ptr.toNat + 4 + memRead s.buf (s.win.ptr.toNat + 2) 2) } } := by
  have hend := hin.le_bufBytes
  exact ⟨⟨_, _, _⟩, toNat_memRead s.buf s.win.ptr.toNat 2, toNat_memRead s.buf (s.win.ptr.toNat + 2) 2,
    (BitVec.toNat_ofNat ..).trans (Nat.mod_eq_of_lt (by omega)), completes_of_ok (exec_upTlv s) (bind_of_ok (needWindow_of_inWindow hin)
      (bind_of_ok (ensure_of_true (decide_eq_true ⟨htype, hlen⟩) _) (bind_of_ok (needWindow_of_inWindow hval) rfl))) rfl⟩

end

/-- Settles O42: the value bytes are read from the memory before the store, which is the table of R117. -/
theorem packTlv : Obligations.PackTlv := by
  unfold Obligations.PackTlv
  intro s p len v
  exact ⟨by decide, pkTlv_raises, fun hin hsrc => ⟨_, packedTlv_storedAs hin, pkTlv_completes hin hsrc⟩⟩

/-- Settles O43: the TLV header, its two fields and the value are checked in this order. -/
theorem unpackTlv : Obligations.UnpackTlv := by
  unfold Obligations.UnpackTlv
  intro s p ty len
  refine ⟨by decide, fun hout => ?_, fun hin hzero => ?_, fun hin htype hlen hout => ?_, upTlv_completes⟩
  · exact raises_of_error (exec_upTlv s) (bind_of_error (needWindow_of_not_inWindow hout))
  · have hill : ¬ (ty ≠ 0 ∧ len ≠ 0) := fun ⟨htype, hlen⟩ => hzero.elim htype hlen
    exact raises_of_error (exec_upTlv s) (bind_of_ok (needWindow_of_inWindow hin)
      (bind_of_error (ensure_of_false (decide_eq_false hill) _)))
  · exact raises_of_error (exec_upTlv s) (bind_of_ok (needWindow_of_inWindow hin)
      (bind_of_ok (ensure_of_true (decide_eq_true ⟨htype, hlen⟩) _) (bind_of_error (needWindow_of_not_inWindow hout))))

section
variable {s : State} (hin : InWindow s s.win.ptr.toNat (4 + s.tlv.len.toNat))
include hin

theorem memRead_packedTlv_type : memRead (packedTlv s) s.win.ptr.toNat 2 = s.tlv.type.toNat :=
  ((packedTlv_storedAs hin).memRead_inside (off := 0) (by omega) fun j hj => by rw [tlvByteAt, if_pos (by omega), Nat.zero_add]).trans
    (Nat.mod_eq_of_lt s.tlv.type.isLt)

theorem memRead_packedTlv_len : memRead (packedTlv s) (s.win.ptr.toNat + 2) 2 = s.tlv.len.toNat :=
  ((packedTlv_storedAs hin).memRead_inside (by omega) fun j hj => by
    rw [tlvByteAt, if_neg (by omega), if_pos (by omega), Nat.add_sub_cancel_left]).trans (Nat.mod_eq_of_lt s.tlv.len.isLt)

theorem readByte_packedTlv_value {k : Nat} (hk : k < s.tlv.len.toNat) :
    readByte (packedTlv s) (s.win.ptr.toNat + 4 + k) = readByte s.buf (s.tlv.vptr.toNat + k) := by
  rw [Nat.add_assoc, (packedTlv_storedAs hin).readByte_inside (by omega), tlvByteAt, if_neg (by omega), if_neg (by omega),
    Nat.add_sub_cancel_left]

/-- `UP.TLV` in a state with the memory that `PK.TLV` left and the cursor where it was. -/
theorem upTlv_of_packed {u : State} (hbuf : u.buf = packedTlv s) (hwin : u.win = s.win) (htype : s.tlv.type ≠ 0)
    (hlen : s.tlv.len ≠ 0) :
    ∃ (x : Tlv) (w : Window), x.type = s.tlv.type ∧ x.len = s.tlv.len ∧ x.vptr.toNat = s.win.ptr.toNat + 4
      ∧ Completes .upTlv false u { u with tlv := x, win := w } := by
  have hreadType : memRead u.buf u.win.ptr.toNat 2 = s.tlv.type.toNat := by rw [hbuf, hwin, memRead_packedTlv_type hin]
  have hreadLen : memRead u.buf (u.win.ptr.toNat + 2) 2 = s.tlv.len.toNat := by rw [hbuf, hwin, memRead_packedTlv_len hin]
  have hin' : InWindow u u.win.ptr.toNat (4 + s.tlv.len.toNat) := by rwa [InWindow, hwin]
  obtain ⟨x, hxtype, hxlen, hxptr, hup⟩ := upTlv_completes (hin'.sub le_rfl (by omega))
    (fun h => htype (BitVec.eq_of_toNat_eq (hreadType.symm.trans h))) (fun h => hlen (BitVec.eq_of_toNat_eq (hreadLen.symm.trans h)))
    (hin'.sub (by omega) (by omega))
  exact ⟨x, _, BitVec.eq_of_toNat_eq (hxtype.trans hreadType), BitVec.eq_of_toNat_eq (hxlen.trans hreadLen), hwin ▸ hxptr, hup⟩

end

/-- Settles O44: the type and the length stored at the cursor are read back from there, so `UP.TLV` passes its checks. -/
theorem tlvRoundTrip : Obligations.TlvRoundTrip := by
  unfold Obligations.TlvRoundTrip
  intro s t htype hlen ht hok
  obtain ⟨hin, hsrc⟩ := pkTlv_passed ht hok
  obtain rfl := (pkTlv_completes hin hsrc).eq ht
  obtain ⟨x, w, hxtype, hxlen, hxptr, hup⟩ := upTlv_of_packed hin (u := { s with
    buf := packedTlv s, cmdCnt := s.cmdCnt + 1, status := ⟨true, false, s.status.lt, s.status.eq, 0⟩ }) rfl rfl htype hlen
  exact ⟨_, hup, rfl, hxtype, hxlen, hxptr, fun k hk => readByte_packedTlv_value hin hk⟩

end Sys2Proof.Machine
end

section
/-! SUPPORT. The leap computation of `PK.ANN` in the words of Safety.lean (R231), and the leap bits of the two flag fields it writes
(R232). -/

namespace Sys2Proof.Machine

/-- The leap computation answers the rule's offset and flags `r` when the offset fits, and raises `E_OVF` otherwise. -/
def AnswersLeap (x : Result TimeProps) (r : Int × Bool × Bool) : Prop :=
  (FitsUtc r.1 → x = .ok ⟨BitVec.ofInt 16 r.1, r.2.1, r.2.2⟩) ∧ (¬ FitsUtc r.1 → x = .error .ovf)

/-- The configured offset fits, being 16 bits. -/
theorem answersLeap_configured (v : BitVec 16) (l59 l61 : Bool) : AnswersLeap (.ok ⟨v, l59, l61⟩) (v.toInt, l59, l61) := by
  have hlo := BitVec.le_toInt v
  have hhi := BitVec.toInt_lt (x := v)
  have hfits : FitsUtc v.toInt := by unfold FitsUtc; omega
  exact ⟨fun _ => by rw [BitVec.ofInt_toInt], fun hbig => absurd hfits hbig⟩

theorem answersLeap_adjusted (v : Int) :
    AnswersLeap (if v < -32768 ∨ 32767 < v then .error .ovf else .ok ⟨BitVec.ofInt 16 v, false, false⟩) (v, false, false) := by
  have hiff : FitsUtc v ↔ ¬ (v < -32768 ∨ 32767 < v) := by unfold FitsUtc; omega
  exact ⟨fun h => if_neg (hiff.mp h), fun h => if_pos (not_not.mp (hiff.not.mp h))⟩

/-- The model's leap computation is the rule's: by the kind of event, and by where the origin lies before or after its instant (R231). -/
theorem leapCalc_answers (g : LeapConfig) (t : Timestamp) : AnswersLeap (leapCalc g t) (leapRule g (tsSec t)) := by
  unfold leapCalc leapRule
  by_cases h59 : g.leapType = 1
  · by_cases hpast : (g.leapDate.toNat : Int) * 86400 ≤ tsSec t - g.utc.toInt
    · simp only [h59, hpast, true_or, true_and, if_true]
      exact answersLeap_adjusted (g.utc.toInt - 1)
    · by_cases hday : (g.leapDate.toNat : Int) * 86400 - 86400 ≤ tsSec t - g.utc.toInt
      · simp only [h59, hpast, hday, true_or, and_self, and_false, if_true, if_false]
        exact answersLeap_configured _ true false
      · simp only [hpast, hday, and_false, if_false, ite_self]
        exact answersLeap_configured _ false false
  · by_cases h61 : g.leapType = 2
    · by_cases hpast : (g.leapDate.toNat : Int) * 86400 ≤ tsSec t - g.utc.toInt
      · simp only [h61, hpast, or_true, true_and, if_true]
        exact answersLeap_adjusted (g.utc.toInt + 1)
      · by_cases hday : (g.leapDate.toNat : Int) * 86400 - 86400 ≤ tsSec t - g.utc.toInt
        · simp only [h61, hpast, hday, or_true, and_self, and_false, if_true, if_false]
          exact answersLeap_configured _ false true
        · simp only [hpast, hday, and_false, if_false, ite_self]
          exact answersLeap_configured _ false false
    · simp only [h59, h61, or_self, false_and, if_false]
      exact answersLeap_configured _ false false

theorem cast_tsSec (t : Timestamp) : (tsSec t : Int) = t.secMsb.toNat * 4294967296 + t.sec.toNat := by
  rw [tsSec]
  push_cast
  rfl

theorem leapBits_lt (l59 l61 : Bool) : 2 * l59.toNat + l61.toNat < 4 := by
  cases l59 <;> cases l61 <;> decide

/-- The two leap bits replaced, as arithmetic: bit 1 is `leap59`, bit 0 is `leap61` (R30). -/
theorem withLeapBits_eq {w : Nat} (f : BitVec w) (l59 l61 : Bool) :
    withLeapBits f l59 l61 = BitVec.ofNat w (f.toNat / 4 * 4 + (2 * l59.toNat + l61.toNat)) := by
  have hflags : 2 * l59.toNat + l61.toNat < 2 ^ 2 := leapBits_lt l59 l61
  refine BitVec.eq_of_getLsbD_eq fun i hi => ?_
  have hnum : (f.toNat / 4 * 4 + (2 * l59.toNat + l61.toNat)).testBit i
      = if i < 2 then (2 * l59.toNat + l61.toNat).testBit i else f.getLsbD i := by
    rw [show f.toNat / 4 * 4 = 2 ^ 2 * (f.toNat / 2 ^ 2) from Nat.mul_comm .., Nat.testBit_two_pow_mul_add _ hflags,
      Nat.testBit_div_two_pow]
    split
    · rfl
    · rw [Nat.sub_add_cancel (by omega)]
      rfl
  rw [BitVec.getLsbD_ofNat, hnum, withLeapBits]
  simp only [BitVec.getLsbD_or, BitVec.getLsbD_and, BitVec.getLsbD_not, BitVec.getLsbD_ofNat, hi, decide_true, Bool.true_and,
    apply_ite (BitVec.getLsbD · i)]
  match i with
  | 0 => cases l59 <;> cases l61 <;> simp
  | 1 => cases l59 <;> cases l61 <;> simp [Nat.testBit_succ]
  | i + 2 => simp [Nat.testBit_succ]

/-- The low byte of a flag word with its leap bits replaced. -/
theorem beByte_withLeapBits_low (f : BitVec 16) (l59 l61 : Bool) :
    beByte 2 (withLeapBits f l59 l61).toNat 1 = withLeapBits (beByte 2 f.toNat 1) l59 l61 := by
  have hflags := leapBits_lt l59 l61
  have hf := f.isLt
  refine BitVec.eq_of_toNat_eq ?_
  rw [withLeapBits_eq, withLeapBits_eq]
  simp only [beByte, BitVec.toNat_ofNat]
  omega

/-- The high byte of a flag word holds no leap bit. -/
theorem beByte_withLeapBits_high (f : BitVec 16) (l59 l61 : Bool) :
    beByte 2 (withLeapBits f l59 l61).toNat 0 = beByte 2 f.toNat 0 := by
  have hflags := leapBits_lt l59 l61
  have hf := f.isLt
  refine BitVec.eq_of_toNat_eq ?_
  rw [withLeapBits_eq]
  simp only [beByte, BitVec.toNat_ofNat]
  omega

/-- The header's bytes with new flags: only bytes 6 and 7 can change. -/
theorem headerByteAt_flags_ne (h : Header) (f : BitVec 16) {k : Nat} (h6 : k ≠ 6) (h7 : k ≠ 7) :
    headerByteAt { h with flags := f } k = headerByteAt h k := by
  obtain hlow | hhigh : k < 6 ∨ ¬ k < 8 := by omega
  · interval_cases k <;> rfl
  · simp only [headerByteAt, hhigh, if_false]

/-- The header packed after the leap bits went into `HDR_FLAGS` is the header packed before, with the leap bits in byte 7 (R232). -/
theorem headerByteAt_withLeapBits (h : Header) (l59 l61 : Bool) (k : Nat) :
    headerByteAt { h with flags := withLeapBits h.flags l59 l61 } k
      = if k = 7 then withLeapBits (headerByteAt h k) l59 l61 else headerByteAt h k := by
  by_cases h7 : k = 7
  · subst h7
    exact beByte_withLeapBits_low h.flags l59 l61
  · rw [if_neg h7]
    by_cases h6 : k = 6
    · subst h6
      exact beByte_withLeapBits_high h.flags l59 l61
    · exact headerByteAt_flags_ne h _ h6 h7

end Sys2Proof.Machine
end

section
/-! SUPPORT. How `PK.ANN` ends, and the memory it leaves (R230, R232). -/

namespace Sys2Proof.Machine

section
variable {a : TsReg} {s : State}

theorem pkAnn_raises_bounds (hout : ¬ InWindow s (base s) 64) : Raises (.pkAnn a) 5 s :=
  raises_of_error (exec_pkAnn a s) (bind_of_error (needWindow_of_not_inWindow hout))

theorem pkAnn_raises_operand (hin : InWindow s (base s) 64) (hill : ¬ WellFormed s.ts[a]) : Raises (.pkAnn a) 4 s :=
  raises_of_error (exec_pkAnn a s) (bind_of_ok (needWindow_of_inWindow hin) (bind_of_error (needWf_of_not_wellFormed hill)))

/-- As its own grandmaster the node ends with the error of the leap computation. -/
theorem pkAnn_raises_leap {e : Err} (hin : InWindow s (base s) 64) (hwf : WellFormed s.ts[a]) (hown : s.leap.localCid = s.ann.gmId)
    (hleap : leapCalc s.leap s.ts[a] = .error e) : Raises (.pkAnn a) (errCode e) s :=
  raises_of_error (exec_pkAnn a s) (bind_of_ok (needWindow_of_inWindow hin) (bind_of_ok (needWf_of_wellFormed hwf)
    ((if_pos hown).trans (bind_of_error hleap))))

/-- As its own grandmaster the node persists what the leap computation answers and transmits its offset. -/
theorem pkAnn_completes_own {p : TimeProps} (hin : InWindow s (base s) 64) (hwf : WellFormed s.ts[a])
    (hown : s.leap.localCid = s.ann.gmId) (hleap : leapCalc s.leap s.ts[a] = .ok p) :
    Completes (.pkAnn a) false s (putAnnounce s.ts[a] p.utcOffset (persist p s)) :=
  completes_of_ok (exec_pkAnn a s) (bind_of_ok (needWindow_of_inWindow hin) (bind_of_ok (needWf_of_wellFormed hwf)
    ((if_pos hown).trans (bind_of_ok hleap rfl)))) rfl

/-- Another node transmits `ANN_UTC` and persists nothing. -/
theorem pkAnn_completes_other (hin : InWindow s (base s) 64) (hwf : WellFormed s.ts[a]) (hother : s.leap.localCid ≠ s.ann.gmId) :
    Completes (.pkAnn a) false s (putAnnounce s.ts[a] s.ann.utc s) :=
  completes_of_ok (exec_pkAnn a s) (bind_of_ok (needWindow_of_inWindow hin) (bind_of_ok (needWf_of_wellFormed hwf)
    ((if_neg hother).trans rfl))) rfl

theorem putAnnounce_storedAs (h : base s + 64 ≤ 2048) (t : Timestamp) (utc : BitVec 16) :
    StoredAs s.buf (putAnnounce t utc s).buf (base s + 34) 30 (announceByteAt s.ann t utc) :=
  storedAs_announce s.buf (by omega) s.ann t utc

/-- The one byte of `BUF` that persisting changes is byte 7 of the header. -/
theorem readByte_persist (h : base s + 7 < 2048) (p : TimeProps) (x : Nat) :
    readByte (persist p s).buf x
      = if x = base s + 7 then withLeapBits (readByte s.buf x) p.leap59 p.leap61 else readByte s.buf x := by
  refine (readByte_writeByte s.buf _ _ h x).trans ?_
  by_cases hx : x = base s + 7
  · rw [if_pos hx, if_pos hx, hx]
  · rw [if_neg hx, if_neg hx]

/-- What the grandmaster's `PK.ANN` leaves: the body, the leap bits in byte 7, every other byte as before. -/
theorem readByte_putAnnounce_persist (h : base s + 64 ≤ 2048) (p : TimeProps) (t : Timestamp) (utc : BitVec 16) (x : Nat) :
    readByte (putAnnounce t utc (persist p s)).buf x
      = if base s + 34 ≤ x ∧ x < base s + 64 then announceByteAt s.ann t utc (x - (base s + 34))
        else if x = base s + 7 then withLeapBits (readByte s.buf x) p.leap59 p.leap61
        else readByte s.buf x := by
  rw [← readByte_persist (by omega) p x]
  exact putAnnounce_storedAs (s := persist p s) h t utc x

end

/-- Settles O40: the window and the Timestamp are checked first, then the leap computation, if the node is its own grandmaster, and the
body is stored over the memory with the leap bits. -/
theorem packAnnounce : Obligations.PackAnnounce := by
  unfold Obligations.PackAnnounce
  intro s a b sec utc l59 l61 flagBits
  have hleap : AnswersLeap (leapCalc s.leap s.ts[a]) (leapRule s.leap sec) := by
    have h := leapCalc_answers s.leap s.ts[a]
    rwa [cast_tsSec] at h
  obtain ⟨hfits, hbig⟩ := hleap
  refine ⟨decode_commandWord rfl, pkAnn_raises_bounds, pkAnn_raises_operand, fun hin hwf hown hover => ?_,
    fun hin hwf hown hutc => ?_, fun hin hwf hother => ?_⟩
  · exact pkAnn_raises_leap hin hwf hown (hbig hover)
  · have hflags : withLeapBits s.hdr.flags l59 l61 = BitVec.ofNat 16 (s.hdr.flags.toNat / 4 * 4 + flagBits) :=
      withLeapBits_eq ..
    have hcompletes := pkAnn_completes_own hin hwf hown (hfits hutc)
    rw [← hflags]
    refine ⟨_, fun x => ?_, hcompletes⟩
    rw [← withLeapBits_eq]
    exact readByte_putAnnounce_persist hin.le_bufBytes ..
  · exact ⟨_, putAnnounce_storedAs hin.le_bufBytes _ _, pkAnn_completes_other hin hwf hother⟩

end Sys2Proof.Machine
end

section
/-! SUPPORT. `PK.HDR` and `PK.ANN` in either order (R214, R232): the header's bytes and the body's lie apart, and the leap bits reach byte 7
through `HDR_FLAGS` or in the buffer. -/

namespace Sys2Proof.Machine

section
variable {a : TsReg} {s : State}

/-- `PK.HDR` asks nothing but the window. -/
theorem pkHdr_completes_of_win {u : State} (hin : InWindow s (base s) 34) (hwin : u.win = s.win) :
    Completes .pkHdr false u (packedHeader u) :=
  pkHdr_completes (by rwa [InWindow, base, hwin])

/-- A `PK.ANN` that has ended with success has passed its checks. -/
theorem pkAnn_passed {t : State} (ht : Answers (.pkAnn a) s t) (hok : t.status.ok = true) :
    InWindow s (base s) 64 ∧ WellFormed s.ts[a] ∧ (s.leap.localCid = s.ann.gmId → ∃ p, leapCalc s.leap s.ts[a] = .ok p) := by
  have hraises := not_raises_of_ok ht hok
  have hin : InWindow s (base s) 64 := by_contra fun hout => hraises _ (pkAnn_raises_bounds hout)
  have hwf : WellFormed s.ts[a] := by_contra fun hill => hraises _ (pkAnn_raises_operand hin hill)
  refine ⟨hin, hwf, fun hown => ?_⟩
  cases hleap : leapCalc s.leap s.ts[a] with
  | ok p => exact ⟨p, rfl⟩
  | error e => exact absurd (pkAnn_raises_leap hin hwf hown hleap) (hraises _)

theorem packedHeader_storedAs (h : base s + 64 ≤ 2048) :
    StoredAs s.buf (packedHeader s).buf (base s) 34 (headerByteAt s.hdr) := storedAs_header s.buf (by omega) s.hdr

/-- For another node the two commands store different bytes. -/
theorem readByte_header_announce (h : base s + 64 ≤ 2048) (t : Timestamp) (utc : BitVec 16) (x : Nat) :
    readByte (putAnnounce t utc (ended s (packedHeader s) false)).buf x
      = readByte (packedHeader (ended s (putAnnounce t utc s) false)).buf x := by
  have hbodyLast : StoredAs (packedHeader s).buf _ (base s + 34) 30 (announceByteAt s.ann t utc) :=
    putAnnounce_storedAs (s := ended s (packedHeader s) false) h t utc
  have hheaderLast : StoredAs (putAnnounce t utc s).buf _ (base s) 34 (headerByteAt s.hdr) :=
    packedHeader_storedAs (s := ended s (putAnnounce t utc s) false) h
  rw [hbodyLast x, packedHeader_storedAs h x, hheaderLast x, putAnnounce_storedAs h t utc x]
  by_cases hx : base s ≤ x ∧ x < base s + 34
  · rw [if_pos hx, if_pos hx, if_neg (by omega)]
  · rw [if_neg hx, if_neg hx]

/-- For the grandmaster they share byte 7, and its leap bits are the computed ones in both orders. -/
theorem readByte_header_announce_own (h : base s + 64 ≤ 2048) (p : TimeProps) (t : Timestamp) (utc : BitVec 16) (x : Nat) :
    readByte (putAnnounce t utc (persist p (ended s (packedHeader s) false))).buf x
      = readByte (packedHeader (ended s (putAnnounce t utc (persist p s)) false)).buf x := by
  have hannounceLast : readByte (putAnnounce t utc (persist p (ended s (packedHeader s) false))).buf x
      = if base s + 34 ≤ x ∧ x < base s + 64 then announceByteAt s.ann t utc (x - (base s + 34))
        else if x = base s + 7 then withLeapBits (readByte (packedHeader s).buf x) p.leap59 p.leap61
        else readByte (packedHeader s).buf x := readByte_putAnnounce_persist (s := ended s (packedHeader s) false) h p t utc x
  have hheaderLast : StoredAs (putAnnounce t utc (persist p s)).buf _ (base s) 34
      (headerByteAt { s.hdr with flags := withLeapBits s.hdr.flags p.leap59 p.leap61 }) :=
    packedHeader_storedAs (s := ended s (putAnnounce t utc (persist p s)) false) h
  rw [hannounceLast, packedHeader_storedAs h x, hheaderLast x, readByte_putAnnounce_persist h, headerByteAt_withLeapBits]
  by_cases hx : base s ≤ x ∧ x < base s + 34
  · have hseven : x = base s + 7 ↔ x - base s = 7 := by omega
    rw [if_pos hx, if_pos hx, if_neg (by omega), if_congr hseven rfl rfl]
  · rw [if_neg hx, if_neg hx]

end

/-- Settles O45: a `PK.ANN` that succeeds shows that the window holds the 64 bytes, so each command succeeds in each order; what is left
is the memory. -/
theorem headerAnnounceCommute : Obligations.HeaderAnnounceCommute := by
  unfold Obligations.HeaderAnnounceCommute
  intro a s t u t' u' ht hu ht' hu' hok
  obtain ⟨hin, hwf, hleap⟩ := pkAnn_passed hu hok
  have hheader : InWindow s (base s) 34 := by
    by_contra hout
    have hpart : InWindow t (base t) 34 := hin.sub le_rfl (by omega)
    rw [Host.Outcome.next.inj (ht.symm.trans (pkHdr_raises hout))] at hpart
    exact hout hpart
  obtain rfl := (pkHdr_completes hheader).eq ht
  have hwindow : InWindow s (base s) 64 := hin
  have hend := hwindow.le_bufBytes
  by_cases hown : s.leap.localCid = s.ann.gmId
  · obtain ⟨p, hp⟩ := hleap hown
    obtain rfl := (pkAnn_completes_own hin hwf hown hp).eq hu
    have hfirst := (pkAnn_completes_own hwindow hwf hown hp).eq ht'
    obtain rfl := (pkHdr_completes_of_win (u := t') hheader (by rw [hfirst]; rfl)).eq hu'
    subst hfirst
    refine ⟨rfl, rfl, rfl, fun x => ?_, rfl, rfl, rfl⟩
    rw [ended_buf, ended_buf]
    exact readByte_header_announce_own hend p s.ts[a] p.utcOffset x
  · obtain rfl := (pkAnn_completes_other hin hwf hown).eq hu
    have hfirst := (pkAnn_completes_other hwindow hwf hown).eq ht'
    obtain rfl := (pkHdr_completes_of_win (u := t') hheader (by rw [hfirst]; rfl)).eq hu'
    subst hfirst
    refine ⟨rfl, rfl, rfl, fun x => ?_, rfl, rfl, rfl⟩
    rw [ended_buf, ended_buf]
    exact readByte_header_announce hend s.ts[a] s.ann.utc x

end Sys2Proof.Machine
end

section
/-! SUPPORT. The servo state registers under the shared operations (R264, R276, R290, R291, R292): a context put back to a given state with
empty filters, a settle timer dropped or armed, and the mirror. -/

namespace Sys2Proof.Machine

theorem set_set {α : Type} {n : Nat} (v : Vector α n) (i : Fin n) (x y : α) : (v.set i.val x).set i.val y = v.set i.val y := by
  simp

theorem setSt_setSt (c : CtxId) (y z : ServoState) (s : State) : setSt c z (setSt c y s) = setSt c z s := by
  simp only [setSt, get_set_same, set_set]

theorem setSt_setFlt_setSt (c : CtxId) (f : FltId) (x : Filter) (y z : ServoState) (s : State) :
    setSt c z (setFlt c f x (setSt c y s)) = setSt c z (setFlt c f x s) := by
  simp only [setSt, setFlt, get_set_same, set_set]

theorem setSt_emitAll (c : CtxId) (y : ServoState) (cs : List Call) (s : State) :
    emitAll cs (setSt c y s) = setSt c y (emitAll cs s) := by
  induction cs generalizing s with
  | nil => rfl
  | cons call cs ih => exact ih (emit call s)

@[simp] theorem emitAll_sv (cs : List Call) (s : State) : (emitAll cs s).sv = s.sv := by
  induction cs generalizing s with
  | nil => rfl
  | cons call cs ih => exact ih (emit call s)

@[simp] theorem eventIf_sv (b : Bool) (e : BitVec 12) (s : State) : (eventIf b e s).sv = s.sv := by
  cases b <;> rfl

@[simp] theorem disarm_sv (i : TmrId) (s : State) : (disarm i s).sv = s.sv := rfl

theorem arm_sv {i : TmrId} {ticks : Nat} {rep : Bool} {s u : State} (h : arm i ticks rep s = .ok u) : u.sv = s.sv := by
  obtain ⟨-, rfl⟩ := (arm_ok i ticks rep s u).mp h
  rfl

/-- `fltReset` of both filters (R193) is `emptied`. -/
theorem emptied_eq (x : Context) :
    emptied x = (x.flt.set 0 (fltReset x.flt[(0 : FltId)])).set 1 (fltReset x.flt[(1 : FltId)]) := by
  refine vector_ext_fin fun j => ?_
  fin_cases j <;> simp [emptied, fltReset]

/-- Context `c` with the state registers `st` and empty filters, its configuration kept. -/
def restart (c : CtxId) (st : ServoState) (s : State) : State :=
  { s with sv := s.sv.set c.val { cfg := s.sv[c].cfg, st := st, flt := emptied s.sv[c] } }

theorem resetFilters_setSt (c : CtxId) (st : ServoState) (s : State) : resetFilters c (setSt c st s) = restart c st s := by
  simp only [resetFilters, setFlt, setSt, restart, get_set_same, set_set, emptied_eq]
  rfl

theorem restart_same (c : CtxId) (st : ServoState) (s : State) :
    (restart c st s).sv[c] = { cfg := s.sv[c].cfg, st := st, flt := emptied s.sv[c] } := get_set_same _ _ _

theorem restart_setSt (c : CtxId) (y st : ServoState) (s : State) : restart c st (setSt c y s) = restart c st s := by
  rw [← resetFilters_setSt, ← resetFilters_setSt, setSt_setSt]

theorem restart_ne {c d : CtxId} (h : d ≠ c) (st : ServoState) (s : State) : (restart c st s).sv[d] = s.sv[d] := get_set_ne _ _ _ _ h

/-- `STATE_CHG` is raised when the clock state `a` differs from the one before. -/
theorem eventIf_changed (a b : BitVec 4) (s : State) : eventIf (a != b) evStateChg s = event (if a = b then 0 else 0x100) s := by
  simp only [eventIf_stateChg, eq_comm]

/-- A settle timer's record once it is armed one-shot for `ticks` ticks with the deadline `r` (R171). -/
def armedOnce (t : Timer) (ticks : BitVec 32) (tick r : Nat) : Timer :=
  { t with armed := true, periodic := false, stopPending := false, periodTicks := ticks
           periodUs := BitVec.ofNat 64 (ticks.toNat * tick), deadlineUs := BitVec.ofNat 64 r }

theorem arm_once (i : TmrId) {ticks : BitVec 32} {s : State} (h : armDeadline s ticks.toNat < 2 ^ 64) :
    arm i ticks.toNat false s
      = .ok (setTimer i (armedOnce s.tm[i] ticks (tickUs s) (armDeadline s ticks.toNat)) s) := by
  refine (arm_ok _ _ _ _ _).mpr ⟨h, ?_⟩
  rw [armedTimer, BitVec.ofNat_toNat, BitVec.setWidth_eq]
  rfl

theorem arm_late (i : TmrId) {ticks : BitVec 32} {s : State} (h : 2 ^ 64 ≤ armDeadline s ticks.toNat) :
    arm i ticks.toNat false s = .error .ovf := (arm_error _ _ _ _ _).mpr ⟨h, rfl⟩

/-- Context `c` back in `FREERUN` with the state registers `st`: empty filters, no settle timer, `STATE_CHG` if it was in another state. -/
def freeRun (c : CtxId) (st : ServoState) (s : State) : State :=
  event (if s.sv[c].st.clockState = 0 then 0 else 0x100) (disarm (settleTimer c) (restart c st s))

theorem freeRun_eq (c : CtxId) (st : ServoState) (s : State) :
    eventIf (s.sv[c].st.clockState != 0) evStateChg (disarm (settleTimer c) (resetFilters c (setSt c st s))) = freeRun c st s := by
  rw [eventIf_changed, resetFilters_setSt]
  rfl

end Sys2Proof.Machine
end


section
/-! SUPPORT. `SV.RESET` and `SV.STAT` (R264, R294). -/

namespace Sys2Proof.Machine

/-- What `SV.RESET` makes of the state (R264). -/
def svResetCopy (c : CtxId) (s : State) : State :=
  if c = s.svActive then mirror c (freeRun c ServoState.zero s) else freeRun c ServoState.zero s

theorem exec_svReset (c : CtxId) (s : State) : exec (.svReset c) s = command (plain (svResetCopy c)) s := by
  have hcopy := fun u : State => congrArg (fun w : State => if c = w.svActive then mirror c w else w) (freeRun_eq c ServoState.zero u)
  have hplain : plain (svResetCopy c) = plain fun u => if c = (freeRun c ServoState.zero u).svActive then
      mirror c (freeRun c ServoState.zero u) else freeRun c ServoState.zero u := rfl
  rw [hplain, ← funext hcopy]
  rfl

theorem exec_svStat (c : CtxId) (s : State) :
    exec (.svStat c) s = command (plain fun s => { s with dout0 := servoStateImage s.sv[c].st, dout1 := s.sv[c].st.offset }) s := rfl

theorem svReset_completes_active {c : CtxId} {s : State} (h : c = s.svActive) :
    Completes (.svReset c) false s (mirror c (freeRun c ServoState.zero s)) := by
  have hcopy : svResetCopy c s = mirror c (freeRun c ServoState.zero s) := if_pos h
  exact hcopy ▸ completes_plain (exec_svReset c s) (by rw [hcopy]; rfl)

theorem svReset_completes_inactive {c : CtxId} {s : State} (h : c ≠ s.svActive) :
    Completes (.svReset c) false s (freeRun c ServoState.zero s) := by
  have hcopy : svResetCopy c s = freeRun c ServoState.zero s := if_neg h
  exact hcopy ▸ completes_plain (exec_svReset c s) (by rw [hcopy]; rfl)

/-- A flag above the bits of a register image counts with its weight. -/
theorem toNat_or_bitAt {x : Reg} {n v : Nat} (hx : x.toNat = v ∧ v < 2 ^ n) (b : Bool) (hn : n < 64 := by decide) :
    (x ||| bitAt n b).toNat = v + 2 ^ n * b.toNat ∧ v + 2 ^ n * b.toNat < 2 ^ (n + 1) := by
  obtain ⟨rfl, hlt⟩ := hx
  rw [pow_succ]
  cases b with
  | false =>
    have hnone : x ||| bitAt n false = x := BitVec.or_zero
    rw [hnone, Bool.toNat_false]
    omega
  | true =>
    have hbit : (1#64 <<< n).toNat = 2 ^ n := by
      rw [BitVec.toNat_shiftLeft, BitVec.toNat_ofNat, Nat.one_mod_two_pow_eq_one.mpr (by decide), Nat.one_shiftLeft]
      exact Nat.mod_eq_of_lt (Nat.pow_lt_pow_right (by decide) hn)
    have hadd := Nat.two_pow_add_eq_or_of_lt hlt 1
    rw [Nat.mul_one] at hadd
    rw [bitAt, if_pos rfl, BitVec.toNat_or, hbit, Nat.or_comm, ← hadd, Bool.toNat_true]
    omega

/-- The number `SV_STATE` shows (R37). -/
theorem servoStateImage_toNat (t : ServoState) :
    (servoStateImage t).toNat = t.clockState.toNat + 16 * t.stableOffset.toNat + 32 * t.offsetOk.toNat + 64 * t.holdoverOk.toNat
      + 128 * t.forceStep.toNat + 256 * t.havePrev.toNat + 512 * t.haveDelay.toNat + 1024 * t.haveSample.toNat := by
  have hclock : (fieldAt 0 t.clockState).toNat = t.clockState.toNat ∧ t.clockState.toNat < 2 ^ 4 := by
    rw [fieldAt, BitVec.shiftLeft_zero, BitVec.toNat_setWidth_of_le (by decide)]
    exact ⟨rfl, t.clockState.isLt⟩
  have hstability := toNat_or_bitAt (toNat_or_bitAt hclock t.stableOffset) t.offsetOk
  have hflags := toNat_or_bitAt (toNat_or_bitAt (toNat_or_bitAt hstability t.holdoverOk) t.forceStep) t.havePrev
  exact (toNat_or_bitAt (toNat_or_bitAt hflags t.haveDelay) t.haveSample).1

/-- Settles O46: the copy `SV.RESET` commits is `freeRun` with zeroed registers, mirrored for the active context, and `SV.STAT` shows the
image of `SV_STATE`. -/
theorem servoResetAndStatus : Obligations.ServoResetAndStatus := by
  unfold Obligations.ServoResetAndStatus
  intro c s dropped u
  exact ⟨decode_commandWord rfl, decode_commandWord rfl, svReset_completes_active, svReset_completes_inactive,
    servoStateImage s.sv[c].st, servoStateImage_toNat _, completes_plain (exec_svStat c s) rfl⟩

end Sys2Proof.Machine
end

section
/-! SUPPORT. `SV.SWITCH` (R290). -/

namespace Sys2Proof.Machine

theorem exec_svSwitch (s : State) : exec .svSwitch s = execSvSwitch s := rfl

theorem settleTimer_injective {c d : CtxId} (h : settleTimer c = settleTimer d) : c = d := Fin.castLE_injective _ h

/-- The new context's state registers at a switch. -/
def takenOver (s : State) : ServoState := switchedState s.sv[s.svActive].st s.sv[otherCtx s.svActive].st

/-- The contexts, `SV_ACTIVE` and the events that a switch leaves, over the timers of `w` (R290). -/
def handedOver (s w : State) : State :=
  { w with
    sv := (s.sv.set (otherCtx s.svActive).val
        { cfg := s.sv[otherCtx s.svActive].cfg, st := takenOver s, flt := emptied s.sv[otherCtx s.svActive] }).set s.svActive.val
      { s.sv[s.svActive] with st := { s.sv[s.svActive].st with forceStep := false } }
    svActive := otherCtx s.svActive
    evt := w.evt ||| (if s.sv[s.svActive].st.clockState = s.sv[otherCtx s.svActive].st.clockState then 0 else 0x100) }

/-- The state in which `SV.SWITCH` has dropped the old settle timer and not yet armed the new one. -/
def halfSwitched (s : State) : State := disarm (settleTimer s.svActive) (restart (otherCtx s.svActive) (takenOver s) s)

/-- What `SV.SWITCH` does after the arming. -/
theorem handedOver_eq {s w : State} (hsv : w.sv = (halfSwitched s).sv) :
    eventIf ((setSt s.svActive { w.sv[s.svActive].st with forceStep := false } w).sv[otherCtx s.svActive].st.clockState
        != s.sv[otherCtx s.svActive].st.clockState) evStateChg
      { setSt s.svActive { w.sv[s.svActive].st with forceStep := false } w with svActive := otherCtx s.svActive }
      = handedOver s w := by
  have hne := otherCtx_ne s.svActive
  have hold : w.sv[s.svActive] = s.sv[s.svActive] := by
    rw [hsv]
    exact restart_ne hne.symm _ _
  have hnew : w.sv[otherCtx s.svActive].st = takenOver s := by
    rw [hsv]
    exact congrArg Context.st (restart_same _ _ _)
  have hclock : (setSt s.svActive { w.sv[s.svActive].st with forceStep := false } w).sv[otherCtx s.svActive].st.clockState
      = s.sv[s.svActive].st.clockState := by
    rw [setSt_st_ne _ _ _ _ hne, hnew]
    rfl
  rw [eventIf_changed, hclock]
  simp only [event, setSt, hold]
  rw [hsv]
  rfl

section
variable {s : State}

theorem svSwitch_raises_cfg (h : ¬ StateLegal s.sv[s.svActive]) : Raises .svSwitch 9 s :=
  raises_of_error (exec_svSwitch s) (bind_of_error (cfgState_of_reserved _ h))

theorem halfSwitched_new : (halfSwitched s).sv[otherCtx s.svActive]
    = { cfg := s.sv[otherCtx s.svActive].cfg, st := takenOver s, flt := emptied s.sv[otherCtx s.svActive] } := restart_same _ _ _

theorem halfSwitched_eq : disarm (settleTimer s.svActive) (resetFilters (otherCtx s.svActive)
    (setSt (otherCtx s.svActive) (switchedState s.sv[s.svActive].st s.sv[otherCtx s.svActive].st) s)) = halfSwitched s :=
  congrArg (disarm (settleTimer s.svActive)) (resetFilters_setSt _ _ _)

/-- The lock state that decides on the arming is the one taken over. -/
theorem halfSwitched_settling :
    settling (halfSwitched s).sv[otherCtx s.svActive].st.clockState = settling s.sv[s.svActive].st.clockState := by
  rw [halfSwitched_new]
  rfl

/-- While settling, the arming step of `SV.SWITCH` arms the new context's settle timer. -/
theorem switchArming_of_settling (hs : Settling s.sv[s.svActive]) :
    let u := disarm (settleTimer s.svActive) (resetFilters (otherCtx s.svActive)
      (setSt (otherCtx s.svActive) (switchedState s.sv[s.svActive].st s.sv[otherCtx s.svActive].st) s))
    settling u.sv[otherCtx s.svActive].st.clockState = true
      ∧ arm (settleTimer (otherCtx s.svActive)) u.sv[otherCtx s.svActive].cfg.settleTicks.toNat false u
        = arm (settleTimer (otherCtx s.svActive)) s.sv[otherCtx s.svActive].cfg.settleTicks.toNat false (halfSwitched s) := by
  intro u
  have hu : u = halfSwitched s := halfSwitched_eq
  rw [hu, halfSwitched_settling, halfSwitched_new]
  exact ⟨(settling_iff _).mpr hs, rfl⟩

theorem svSwitch_completes_settling {w : State} (h : StateLegal s.sv[s.svActive]) (hs : Settling s.sv[s.svActive])
    (harm : arm (settleTimer (otherCtx s.svActive)) s.sv[otherCtx s.svActive].cfg.settleTicks.toNat false (halfSwitched s) = .ok w)
    (hcnt : w.cmdCnt = s.cmdCnt) : Completes .svSwitch false s (handedOver s w) := by
  obtain ⟨hsettling, heq⟩ := switchArming_of_settling hs
  exact completes_of_ok (exec_svSwitch s) (bind_of_ok (cfgState_of_legal _ h) ((if_pos hsettling).trans
    (bind_of_ok (heq.trans harm) (congrArg (fun u => Except.ok (u, false)) (handedOver_eq (arm_sv harm)))))) hcnt

theorem svSwitch_raises_settling {e : Err} (h : StateLegal s.sv[s.svActive]) (hs : Settling s.sv[s.svActive])
    (harm : arm (settleTimer (otherCtx s.svActive)) s.sv[otherCtx s.svActive].cfg.settleTicks.toNat false (halfSwitched s) = .error e) :
    Raises .svSwitch (errCode e) s := by
  obtain ⟨hsettling, heq⟩ := switchArming_of_settling hs
  exact raises_of_error (exec_svSwitch s)
    (bind_of_ok (cfgState_of_legal _ h) ((if_pos hsettling).trans (bind_of_error (heq.trans harm))))

theorem svSwitch_completes (h : StateLegal s.sv[s.svActive]) (hs : ¬ Settling s.sv[s.svActive]) :
    Completes .svSwitch false s (handedOver s (halfSwitched s)) := by
  have hsettling := halfSwitched_settling.trans ((not_settling_iff _).mpr hs)
  rw [← halfSwitched_eq] at hsettling
  exact completes_of_ok (exec_svSwitch s) (bind_of_ok (cfgState_of_legal _ h) ((if_neg (Bool.eq_false_iff.mp hsettling)).trans
    (bind_of_ok (congrArg Except.ok halfSwitched_eq) (congrArg (fun u => Except.ok (u, false)) (handedOver_eq rfl))))) rfl

end

/-- Settles O52: `SV.SWITCH` checks the state number and then ends as its arming does, which is none unless the context is settling. -/
theorem switchContext : Obligations.SwitchContext := by
  unfold Obligations.SwitchContext
  intro s o n old ticks y moved
  refine ⟨by decide, svSwitch_raises_cfg, svSwitch_completes, fun hlegal hs => ?_⟩
  refine ⟨armDeadline s ticks, roundedUp_roundupTick s _, fun hlate => ?_, fun hfits => ?_⟩
  · exact svSwitch_raises_settling hlegal hs (arm_late _ hlate)
  · have hother : (halfSwitched s).tm[settleTimer n] = s.tm[settleTimer n] :=
      get_set_ne _ _ _ _ fun h => otherCtx_ne o (settleTimer_injective h)
    have harm := arm_once (settleTimer n) (s := halfSwitched s) hfits
    rw [hother] at harm
    exact svSwitch_completes_settling hlegal hs harm rfl

end Sys2Proof.Machine
end

section
/-! SUPPORT. The commands that leave every servo state register alone, and the next states of the ones that may not, as far as the servo
state registers, the calls and the events go. -/

namespace Sys2Proof.Machine

/-- The command leaves the servo state registers of both contexts as they were. -/
def KeepsServo (i : Instr) : Prop := ∀ s t, exec i s = .next t → ∀ c : CtxId, t.sv[c].st = s.sv[c].st

theorem keepsServo_of_post {i : Instr} {body : Body} (hi : ∀ s, exec i s = command body s)
    (h : ∀ s, Post (body s) fun p => ∀ c : CtxId, p.1.sv[c].st = s.sv[c].st) : KeepsServo i := fun s t ht c => by
  rw [hi, command_next] at ht
  rcases ht with ⟨u, v, hu, rfl⟩ | ⟨e, -, rfl⟩
  · exact h s _ hu c
  · rfl

theorem keepsServo_plain {i : Instr} {f : State → State} (hi : ∀ s, exec i s = command (plain f) s)
    (h : ∀ s, ∀ c : CtxId, (f s).sv[c].st = s.sv[c].st) : KeepsServo i := keepsServo_of_post hi fun s => post_ok (h s)

theorem keepsServo_toTi {i : Instr} {d : TiReg} {f : State → Result TimeInterval} (hi : ∀ s, exec i s = command (toTi d f) s) :
    KeepsServo i := keepsServo_of_post hi fun _ => post_check fun _ => post_pure fun _ => rfl

/-- `FLT.STEP` works on a filter only (R196). -/
theorem fltStep_keepsServo (x : CtxId) (y : FltId) (a d : TiReg) : KeepsServo (.fltStep x y a d) := fun s t h c => by
  rcases fltStep_next x y a d s t h with ⟨e, -, rfl⟩ | ⟨F, ⟨-, rfl⟩ | ⟨v, -, rfl⟩⟩
  · rfl
  · exact setFlt_st x c y F s
  · exact setFlt_st x c y F s

/-- What holds of the `SV.*` commands, `TM.TICK` and `SYS.RESET`, and of every command that leaves the servo state alone, holds of every
command. -/
theorem servo_cases {P : Instr → Prop} (svReset : ∀ c, P (.svReset c)) (svDelay : ∀ c a b k, P (.svDelay c a b k))
    (svOffset : ∀ c a b k, P (.svOffset c a b k)) (svPid : ∀ c o n, P (.svPid c o n)) (svSwitch : P .svSwitch)
    (svLost : ∀ c, P (.svLost c)) (tmTick : ∀ a, P (.tmTick a)) (sysReset : P .sysReset)
    (other : ∀ i, KeepsServo i → i ≠ .sysReset → P i) (i : Instr) : P i := by
  cases i with
  | svReset c => exact svReset c
  | svDelay c a b k => exact svDelay c a b k
  | svOffset c a b k => exact svOffset c a b k
  | svPid c o n => exact svPid c o n
  | svSwitch => exact svSwitch
  | svLost c => exact svLost c
  | tmTick a => exact tmTick a
  | sysReset => exact sysReset
  | fltStep x y a d => exact other _ (fltStep_keepsServo x y a d) nofun
  | fltReset x y => exact other _ (keepsServo_plain (fun _ => rfl) fun s c => setFlt_st x c y _ s) nofun
  | nop | tiMov _ _ | tiHalf _ _ | tiToNs _ _ | tiCmp _ _ | tsMov _ _ | svStat _ | ccFreq _ _ | ccDelta _ _ | ccPhase _ _
  | ccGetTime _ _ => exact other _ (keepsServo_plain (fun _ => rfl) fun _ _ => rfl) nofun
  | tiAdd _ _ _ | tiSub _ _ _ | tiNeg _ _ | tiAbs _ _ | tiFromNs _ _ | tiMulI _ _ _ | tiDivI _ _ _ | tsSub _ _ _ | tsDiffC _ _ _ _ =>
    exact other _ (keepsServo_toTi fun _ => rfl) nofun
  | pkHdr | upHdr | upTs _ | upPd _ _ | upAnn _ | upSig _ | ccSetTime _ _ =>
    refine other _ (keepsServo_of_post (fun _ => rfl) fun s => ?_) nofun
    exact post_check fun _ => post_pure fun _ => rfl
  | tsAddI _ _ _ | pkSig _ | pkTlv | tmInit _ _ =>
    refine other _ (keepsServo_of_post (fun _ => rfl) fun s => ?_) nofun
    exact post_check fun _ => post_check fun _ => post_pure fun _ => rfl
  | pkTs _ | pkPd _ _ | upTlv =>
    refine other _ (keepsServo_of_post (fun _ => rfl) fun s => ?_) nofun
    exact post_check fun _ => post_check fun _ => post_check fun _ => post_pure fun _ => rfl
  | pkAnn _ =>
    refine other _ (keepsServo_of_post (fun _ => rfl) fun s => ?_) nofun
    exact post_check fun _ => post_check fun _ => post_ite (post_check fun _ => post_pure fun _ => rfl) (post_pure fun _ => rfl)
  | tmStart _ _ _ =>
    refine other _ (keepsServo_of_post (fun _ => rfl) fun s => ?_) nofun
    refine post_check fun _ => post_check fun _ => post_check fun _ => post_check fun _ => ?_
    exact post_bind (fun _ hu => arm_sv hu) fun u hu => post_pure fun c => congrArg (fun v : Vector Context 2 => v[c].st) hu
  | tmStop _ =>
    refine other _ (keepsServo_of_post (fun _ => rfl) fun s => ?_) nofun
    exact post_check fun _ => post_ite (post_pure fun _ => rfl) (post_pure fun _ => rfl)

/-- A command that raises has only taken its error. -/
theorem Raises.eq {i : Instr} {code : BitVec 8} {s t : State} (h : Raises i code s) (ht : Answers i s t) :
    t = { s with cmdCnt := s.cmdCnt + 1, status := ⟨false, false, s.status.lt, s.status.eq, code⟩ } :=
  Host.Outcome.next.inj (ht.symm.trans h)

end Sys2Proof.Machine
end

section
/-! SUPPORT. What `SV.SWITCH` and `TM.TICK` make of the servo state when they do not raise, from the statements that settle them. -/

namespace Sys2Proof.Machine

/-- A command whose next state does not show success has left everything but `CMDCNT` and `STATUS` alone (R352). -/
theorem failed_or_ok {i : Instr} {s t : State} (ht : Answers i s t) : (∃ e, t = takeError e s) ∨ t.status.ok = true := by
  rcases exec_ends i s t ht with ⟨hok, -⟩ | ⟨-, he⟩
  · exact .inr hok
  · exact .inl he

/-- A successful `SV.SWITCH` has handed over (R290). -/
theorem svSwitch_ok {s t : State} (ht : Answers .svSwitch s t) (hok : t.status.ok = true) :
    t.sv = (handedOver s s).sv ∧ t.evt = (handedOver s s).evt := by
  have hraises := not_raises_of_ok ht hok
  obtain ⟨-, hcfg, hmoved, hsettling⟩ := switchContext s
  have hlegal : StateLegal s.sv[s.svActive] := by_contra fun h => hraises _ (hcfg h)
  by_cases hs : Settling s.sv[s.svActive]
  · obtain ⟨r, -, hlate, harmed⟩ := hsettling hlegal hs
    have hfits : r < 18446744073709551616 := by
      by_contra h
      exact hraises _ (hlate (Nat.le_of_not_lt h))
    rw [(harmed hfits).eq ht]
    exact ⟨rfl, rfl⟩
  · rw [(hmoved hlegal hs).eq ht]
    exact ⟨rfl, rfl⟩

/-- The contexts and the events after a successful `TM.TICK` (R178, R278). -/
theorem tmTick_ok {a : TiReg} {s t : State} (ht : Answers (.tmTick a) s t) (hok : t.status.ok = true) :
    (∀ c : CtxId, t.sv[c] = tickedContext s s.ti[a].toNat c) ∧ t.evt = s.evt ||| tickEvents s s.ti[a].toNat := by
  have hraises := not_raises_of_ok ht hok
  obtain ⟨-, hback, hfirst, hdone⟩ := timerTick a s
  have hnow : s.nowUs.toNat ≤ s.ti[a].toNat := by
    by_contra h
    exact hraises _ (hback (Nat.lt_of_not_le h))
  have hticks : ∀ i : TmrId, Ticks s.tm[i] s.ti[a].toNat := fun i => by
    induction i using WellFoundedLT.induction with
    | ind i ih =>
      obtain ⟨hcfg, hovf⟩ := hfirst i hnow ih
      exact ⟨fun h => hraises _ (hcfg h), fun h => hraises _ (hovf h)⟩
  obtain ⟨tm, sv, next, fired, -, hsv, -, -, hcompletes⟩ := hdone hnow hticks
  rw [hcompletes.eq ht]
  exact ⟨hsv, rfl⟩

theorem sysReset_sv {s t : State} (ht : Answers .sysReset s t) : t.sv = State.reset.sv := by
  have hexec : exec .sysReset s = .next (complete (resetCsrs s) false) := rfl
  rw [← Host.Outcome.next.inj (hexec.symm.trans ht)]
  rfl

theorem handedOver_new (s w : State) : (handedOver s w).sv[otherCtx s.svActive].st = takenOver s :=
  congrArg Context.st ((get_set_ne _ _ _ _ (otherCtx_ne _)).trans (get_set_same _ _ _))

theorem handedOver_old (s w : State) :
    (handedOver s w).sv[s.svActive].st = { s.sv[s.svActive].st with forceStep := false } :=
  congrArg Context.st (get_set_same _ _ _)

/-- A part of the servo state registers that a new set keeps is the same in both contexts after its store. -/
theorem setSt_keeps_part {α : Type} (f : ServoState → α) {c : CtxId} {st : ServoState} {s : State} (h : f st = f s.sv[c].st)
    (d : CtxId) : f (setSt c st s).sv[d].st = f s.sv[d].st := by
  by_cases hd : d = c
  · subst hd
    rw [setSt_st_same, h]
  · rw [setSt_st_ne _ _ _ _ hd]

end Sys2Proof.Machine
end

section
/-! SUPPORT. The shadow sets of the two contexts (R291): the commands end with the mirror, or leave the shadow sets alone. -/

namespace Sys2Proof.Machine

theorem shadowAgrees_iff (s : State) (c : CtxId) :
    ShadowAgrees s ↔ shadowOf s.sv[otherCtx c].st = shadowOf s.sv[c].st := by
  match c with
  | 0 => exact eq_comm
  | 1 => exact Iff.rfl

theorem shadowAgrees_mirror (c : CtxId) (s : State) : ShadowAgrees (mirror c s) := by
  rw [shadowAgrees_iff _ c, mirror_st_other, mirror_st_same]
  rfl

theorem shadowAgrees_of_same {s t : State} (h : ∀ c : CtxId, shadowOf t.sv[c].st = shadowOf s.sv[c].st) (hs : ShadowAgrees s) :
    ShadowAgrees t := (h 0).trans (hs.trans (h 1).symm)

theorem shadowAgrees_setSt {c : CtxId} {st : ServoState} {s : State} (h : shadowOf st = shadowOf s.sv[c].st) (hs : ShadowAgrees s) :
    ShadowAgrees (setSt c st s) := shadowAgrees_of_same (setSt_keeps_part shadowOf h) hs

theorem shadowAgrees_setFlt (c : CtxId) (f : FltId) (x : Filter) {s : State} (hs : ShadowAgrees s) : ShadowAgrees (setFlt c f x s) :=
  shadowAgrees_of_same (fun d => congrArg shadowOf (setFlt_st c d f x s)) hs

theorem shadowAgrees_complete {u : State} (h : ShadowAgrees u) (v : Bool) : ShadowAgrees (complete u v) := h

theorem shadowAgrees_takeError {s : State} (h : ShadowAgrees s) (e : Err) : ShadowAgrees (takeError e s) := h

theorem doStep_shadowAgrees {c : CtxId} {raw : Int} {t1 : Timestamp} {corr : Int} {s u : State} (h : doStep c raw t1 corr s = .ok u) :
    ShadowAgrees u := by
  obtain ⟨call, a, -, -, rfl⟩ := doStep_ok c raw t1 corr s u h
  exact shadowAgrees_mirror c _

theorem servoEval_shadowAgrees {c : CtxId} {off : TimeInterval} {now : Timestamp} {s u : State} (h : servoEval c off now s = .ok u) :
    ShadowAgrees u := by
  obtain ⟨dt, p, ratio, -, -, -, st, -, rfl⟩ := servoEval_ok c off now s u h
  exact shadowAgrees_mirror c _

/-- The new context takes the shadow set over, and the old one keeps its own (R290). -/
theorem handedOver_shadowAgrees (s w : State) : ShadowAgrees (handedOver s w) := by
  rw [shadowAgrees_iff _ s.svActive, handedOver_new, handedOver_old]
  rfl

/-- The measured delays are no part of the shadow set (R291). -/
theorem shadowOf_delays (st : ServoState) (s2m mpd : TimeInterval) (haveDelay : Bool) :
    shadowOf { st with s2m := s2m, mpd := mpd, haveDelay := haveDelay } = shadowOf st := rfl

/-- The recorded sample is no part of the shadow set. -/
theorem shadowOf_withSample (st : ServoState) (m2s : Int) (t1 t2 : Timestamp) : shadowOf (withSample st m2s t1 t2) = shadowOf st := rfl

/-- The command keeps the shadow sets equal. -/
def KeepsAgreement (i : Instr) : Prop := ∀ s t, ShadowAgrees s → Answers i s t → ShadowAgrees t

theorem svDelay_keepsAgreement (c : CtxId) (a b : TsReg) (k : TiReg) : KeepsAgreement (.svDelay c a b k) := fun s t hs ht => by
  have hdelays : ∀ F s2m mpd haveDelay, ShadowAgrees
      (setSt c { s.sv[c].st with s2m := s2m, mpd := mpd, haveDelay := haveDelay } (setFlt c 0 F s)) := fun F s2m mpd haveDelay =>
    shadowAgrees_setSt (by rw [setFlt_st, shadowOf_delays]) (shadowAgrees_setFlt c 0 F hs)
  rcases svDelay_next c a b k s t ht with ⟨e, rfl, -⟩ | ⟨-, rfl⟩ | ⟨F, ⟨-, -, rfl⟩ | ⟨y, -, -, rfl⟩⟩
  · exact shadowAgrees_takeError hs e
  · exact shadowAgrees_complete (shadowAgrees_setSt (by rfl) hs) _
  · exact shadowAgrees_complete (hdelays F _ _ _) _
  · exact shadowAgrees_complete (hdelays F _ _ _) _

theorem svOffset_keepsAgreement (c : CtxId) (a b : TsReg) (k : TiReg) : KeepsAgreement (.svOffset c a b k) := fun s t hs ht => by
  have hsampled := shadowAgrees_setSt (shadowOf_withSample s.sv[c].st (oneWay s.ts[a] s.ts[b] (tiInt s k)) s.ts[a] s.ts[b]) hs
  rcases svOffset_next c a b k s t ht with ⟨e, rfl, -⟩ | ⟨-, -, hends⟩
  · exact shadowAgrees_takeError hs e
  · rcases hends with ⟨-, -, rfl⟩ | ⟨-, -, u, hu, rfl⟩ | ⟨-, -, F, ⟨-, rfl⟩ | ⟨y, u, -, hu, rfl⟩⟩
    · exact shadowAgrees_complete hsampled _
    · exact shadowAgrees_complete (doStep_shadowAgrees hu) _
    · exact shadowAgrees_complete (shadowAgrees_setFlt c 1 F hsampled) _
    · exact shadowAgrees_complete (servoEval_shadowAgrees hu) _

theorem svPid_keepsAgreement (c : CtxId) (o : TiReg) (n : TsReg) : KeepsAgreement (.svPid c o n) := fun s t hs ht => by
  rcases svPid_next c o n s t ht with ⟨e, rfl, -⟩ | ⟨-, -, rfl⟩ | ⟨u, -, -, -, hu, rfl⟩
  · exact shadowAgrees_takeError hs e
  · exact shadowAgrees_complete hs _
  · exact shadowAgrees_complete (servoEval_shadowAgrees hu) _

theorem svSwitch_keepsAgreement : KeepsAgreement .svSwitch := fun s t hs ht => by
  rcases failed_or_ok ht with ⟨e, rfl⟩ | hok
  · exact shadowAgrees_takeError hs e
  · obtain ⟨hsv, -⟩ := svSwitch_ok ht hok
    rw [ShadowAgrees, hsv]
    exact handedOver_shadowAgrees s s

theorem svLost_keepsAgreement (c : CtxId) : KeepsAgreement (.svLost c) := fun s t hs ht => by
  rcases svLost_next c s t ht with ⟨e, rfl, -⟩ | ⟨-, -, u, -, rfl⟩
  · exact shadowAgrees_takeError hs e
  · exact shadowAgrees_complete (shadowAgrees_mirror c _) _

theorem tmTick_keepsAgreement (a : TiReg) : KeepsAgreement (.tmTick a) := fun s t hs ht => by
  rcases failed_or_ok ht with ⟨e, rfl⟩ | hok
  · exact shadowAgrees_takeError hs e
  · obtain ⟨hsv, -⟩ := tmTick_ok ht hok
    exact shadowAgrees_of_same (fun d => by rw [hsv]; rfl) hs

/-- Settles O55: by the command, whether it mirrors, hands the shadow set over, zeroes both, or leaves both alone. -/
theorem shadowAgreementKept : Obligations.ShadowAgreementKept := by
  unfold Obligations.ShadowAgreementKept
  intro i
  refine servo_cases (P := fun i => ∀ s t, ShadowAgrees s → (∀ c, i = .svReset c → c = s.svActive) → Answers i s t → ShadowAgrees t)
    (fun c s t _ hactive ht => ?svReset) (fun c a b k s t hs _ => svDelay_keepsAgreement c a b k s t hs)
    (fun c a b k s t hs _ => svOffset_keepsAgreement c a b k s t hs) (fun c o n s t hs _ => svPid_keepsAgreement c o n s t hs)
    (fun s t hs _ => svSwitch_keepsAgreement s t hs) (fun c s t hs _ => svLost_keepsAgreement c s t hs)
    (fun a s t hs _ => tmTick_keepsAgreement a s t hs) (fun s t _ _ ht => ?sysReset) (fun i hkeeps _ s t hs _ ht => ?other) i
  case svReset =>
    rw [(svReset_completes_active (hactive c rfl)).eq ht]
    exact shadowAgrees_complete (shadowAgrees_mirror c _) false
  case sysReset => rw [ShadowAgrees, sysReset_sv ht, sv_reset, sv_reset]
  case other => exact shadowAgrees_of_same (fun d => congrArg shadowOf (hkeeps s t ht d)) hs

end Sys2Proof.Machine
end

section
/-! SUPPORT. `SV.LOST` (R292). -/

namespace Sys2Proof.Machine

theorem exec_svLost (c : CtxId) (s : State) : exec (.svLost c) s = execSvLost c s := rfl

theorem needActive_of_active {c : CtxId} {s : State} (h : c = s.svActive) : needActive c s = .ok () := (needActive_ok c s ()).mpr h

theorem needActive_of_inactive {c : CtxId} {s : State} (h : c ≠ s.svActive) : needActive c s = .error .inactive :=
  (needActive_error c s _).mpr ⟨h, rfl⟩

/-- A 64-bit average read as a ratio fits: the factor `1000 / 65536` is below one (R284). -/
theorem fits_ratioOf_toInt (x : TimeInterval) : Fits (ratioOf x.toInt) := by
  have hx := fits_toInt x
  unfold Fits ratioOf at *
  omega

/-- What `SV.LOST` leaves once the holdover has been applied, or not, on `u` (R292). -/
def lostCopy (c : CtxId) (u : State) : State := mirror c (freeRun c (lostState u.sv[c].st) u)

section
variable {c : CtxId} {s : State}

theorem svLost_raises_inactive (h : c ≠ s.svActive) : Raises (.svLost c) 10 s :=
  raises_of_error (exec_svLost c s) (bind_of_error (needActive_of_inactive h))

theorem svLost_raises_cfg (h : c = s.svActive) (hreserved : ¬ StateLegal s.sv[c]) : Raises (.svLost c) 9 s :=
  raises_of_error (exec_svLost c s) (bind_of_ok (needActive_of_active h) (bind_of_error (cfgState_of_reserved _ hreserved)))

theorem svLost_completes {u : State} (h : c = s.svActive) (hlegal : StateLegal s.sv[c]) (hu : applyHoldover c s = .ok u)
    (hcnt : u.cmdCnt = s.cmdCnt) : Completes (.svLost c) false s (lostCopy c u) :=
  completes_of_ok (exec_svLost c s) (bind_of_ok (needActive_of_active h) (bind_of_ok (cfgState_of_legal _ hlegal)
    (bind_of_ok hu (congrArg (fun w => Except.ok (mirror c w, false)) (freeRun_eq c _ u))))) hcnt

/-- Without `holdover_ok` nothing is applied. -/
theorem applyHoldover_none (h : s.sv[c].st.holdoverOk = false) : applyHoldover c s = .ok s := if_neg (Bool.eq_false_iff.mp h)

/-- The state with the holdover frequency applied. -/
def holdoverApplied (c : CtxId) (s : State) : State :=
  let r : Reg := BitVec.ofInt 64 (ratioOf s.sv[c].st.adjAvg.toInt)
  event evHoldoverUsed (setSt c { s.sv[c].st with ratio := r } (emit (.setFrequencyRatio r s.sv[c].cfg.domain) s))

theorem applyHoldover_some (h : s.sv[c].st.holdoverOk = true) : applyHoldover c s = .ok (holdoverApplied c s) := by
  have hchk := chk_of_fits _ (fits_ratioOf_toInt s.sv[c].st.adjAvg)
  rw [← ppt_eq] at hchk
  refine (if_pos h).trans (bind_of_ok hchk ?_)
  rw [ppt_eq]
  rfl

theorem holdoverApplied_st : (holdoverApplied c s).sv[c].st
    = { s.sv[c].st with ratio := BitVec.ofInt 64 (ratioOf s.sv[c].st.adjAvg.toInt) } := setSt_st_same _ _ _

/-- Going back to `FREERUN` replaces the state registers the holdover wrote, and adds to its event. -/
theorem freeRun_holdoverApplied (st : ServoState) :
    freeRun c st (holdoverApplied c s)
      = event (evHoldoverUsed ||| (if s.sv[c].st.clockState = 0 then 0 else 0x100)) (disarm (settleTimer c) (restart c st
          (emit (.setFrequencyRatio (BitVec.ofInt 64 (ratioOf s.sv[c].st.adjAvg.toInt)) s.sv[c].cfg.domain) s))) := by
  have hrestart : restart c st (holdoverApplied c s) = event evHoldoverUsed (restart c st
      (emit (.setFrequencyRatio (BitVec.ofInt 64 (ratioOf s.sv[c].st.adjAvg.toInt)) s.sv[c].cfg.domain) s)) :=
    congrArg (event evHoldoverUsed) (restart_setSt c _ st _)
  rw [freeRun, holdoverApplied_st, hrestart, ← event_event]
  rfl

end

/-- Settles O53: the two checks, the holdover, and then what every command that goes back to `FREERUN` does, with the mirror. -/
theorem masterLost : Obligations.MasterLost := by
  unfold Obligations.MasterLost
  intro c s x ratio left lost
  refine ⟨decode_commandWord rfl, svLost_raises_inactive, svLost_raises_cfg, fun hactive hlegal hnone => ?_,
    fits_ratioOf_toInt _, fun hactive hlegal hholdover => ?_⟩
  · have hcopy : lost x.st.ratio 0 s = lostCopy c s :=
      congrArg (fun b => mirror c (event b (disarm (settleTimer c) (restart c (lostState x.st) s)))) BitVec.zero_or
    exact hcopy ▸ svLost_completes hactive hlegal (applyHoldover_none hnone) rfl
  · have hdone := svLost_completes hactive hlegal (applyHoldover_some hholdover) rfl
    rw [lostCopy, freeRun_holdoverApplied, holdoverApplied_st] at hdone
    exact hdone

end Sys2Proof.Machine
end

section
/-! SUPPORT. The controller (R281) on a context whose state registers have just been written, and `SV.PID` (R280). -/

namespace Sys2Proof.Machine

/-- An evaluation reads no filter. -/
theorem Evaluates.of_flt {x : Context} {flt : Vector Filter 2} {off : TimeInterval} {now : Timestamp} {z : ServoState}
    (h : Evaluates { x with flt := flt } off now z) : Evaluates x off now z :=
  ⟨h.deltaT, h.prop, h.integral, h.diff, h.adj, h.ratio, h.stableCnt, h.unstableCnt, h.stableOffset, h.offsetOk, h.adjAvg, h.hoCnt,
    h.holdoverOk, h.clockState, h.previous, h.kept⟩

/-- What an evaluation commits replaces state registers written before it. -/
theorem committed_setSt (c : CtxId) (y z : ServoState) (calls : List Call) (events : BitVec 12) (s : State) :
    committed c z calls events (setSt c y s) = committed c z calls events s := by
  rw [committed, setSt_emitAll, setSt_setSt]
  rfl

section
variable {c : CtxId} {off : TimeInterval} {now : Timestamp} {s : State} {e : Context}

/-- The context the controller works on, once `SV_OFFSET` and the like are written: that of the statement but for its filters. -/
theorem setSt_context (hcfg : s.sv[c].cfg = e.cfg) : (setSt c e.st s).sv[c] = { e with flt := s.sv[c].flt } := by
  rw [setSt_same, ← hcfg]

theorem servoEval_setSt_operand (hcfg : s.sv[c].cfg = e.cfg) (h : ¬ TimeAdvances e now) :
    servoEval c off now (setSt c e.st s) = .error .operand := by
  refine servoEval_operand _ _ _ _ ?_
  rw [setSt_context hcfg]
  exact h

theorem servoEval_setSt_ovf (hcfg : s.sv[c].cfg = e.cfg) (h : TimeAdvances e now) (hf : ¬ EvalFits e off.toInt now) :
    servoEval c off now (setSt c e.st s) = .error .ovf := by
  have hcontext := setSt_context hcfg
  refine servoEval_ovf _ _ _ _ ?_ ?_ <;> rw [hcontext]
  · exact h
  · exact hf

theorem servoEval_setSt_committed (hcfg : s.sv[c].cfg = e.cfg) (h : TimeAdvances e now) (hf : EvalFits e off.toInt now) :
    ∃ z, Evaluates e off now z
      ∧ servoEval c off now (setSt c e.st s) = .ok (committed c z (evalCalls e off.toInt now) (evalEvents e.st z) s) := by
  have hcontext := setSt_context hcfg
  obtain ⟨z, hz, heval⟩ := servoEval_committed c off now (setSt c e.st s) (by rw [hcontext]; exact h) (by rw [hcontext]; exact hf)
  rw [hcontext, committed_setSt] at heval
  rw [hcontext] at hz
  exact ⟨z, hz.of_flt, heval⟩

end

theorem exec_svPid (c : CtxId) (o : TiReg) (n : TsReg) (s : State) : exec (.svPid c o n) s = execSvPid c o n s := rfl

theorem cfgPid_of_configured {x : Context} (h : PidConfigured x) : cfgPid x = .ok () := (pidConfigured_iff x).mp h

theorem emitAll_cmdCnt (calls : List Call) (s : State) : (emitAll calls s).cmdCnt = s.cmdCnt := (emitAll_keeps calls s).cmdCnt

theorem ite_settling {α : Type} {x : Context} {a b : α} (h : Settling x) : (if settling x.st.clockState then a else b) = a :=
  if_pos ((settling_iff x).mpr h)

theorem ite_not_settling {α : Type} {x : Context} {a b : α} (h : ¬ Settling x) : (if settling x.st.clockState then a else b) = b :=
  if_neg (Bool.eq_false_iff.mp ((not_settling_iff x).mpr h))

theorem svPid_checked {c : CtxId} {n : TsReg} {s : State} {α : Type} {r : Result α} (hactive : c = s.svActive)
    (hwf : WellFormed s.ts[n]) (hcfg : PidConfigured s.sv[c]) : (do needActive c s; needWf s.ts[n]; cfgPid s.sv[c]; r) = r :=
  bind_of_ok (needActive_of_active hactive) (bind_of_ok (needWf_of_wellFormed hwf) (bind_of_ok (cfgPid_of_configured hcfg) rfl))

/-- Settles O51: the checks in their order, and then the controller on the context with the given offset in `SV_OFFSET`. -/
theorem pidEvaluation : Obligations.PidEvaluation := by
  unfold Obligations.PidEvaluation
  intro c o n s x ins e
  have hexec := exec_svPid c o n s
  refine ⟨decode_commandWord rfl, fun hinactive => ?_, fun hactive hill => ?_, fun hactive hwf hbad => ?_,
    fun hactive hwf hcfg hs => ?_, fun hactive hwf hcfg hs => ⟨fun hback => ?_, fun hadv hover => ?_, fun hadv hfits => ?_⟩⟩
  · exact raises_of_error hexec (bind_of_error (needActive_of_inactive hinactive))
  · exact raises_of_error hexec (bind_of_ok (needActive_of_active hactive) (bind_of_error (needWf_of_not_wellFormed hill)))
  · exact raises_of_error hexec (bind_of_ok (needActive_of_active hactive) (bind_of_ok (needWf_of_wellFormed hwf)
      (bind_of_error (cfgPid_of_not _ hbad))))
  · exact completes_of_ok hexec ((svPid_checked hactive hwf hcfg).trans (ite_settling hs)) rfl
  · have heval := servoEval_setSt_operand (off := s.ti[o]) (e := e) rfl hback
    exact raises_of_error hexec ((svPid_checked hactive hwf hcfg).trans ((ite_not_settling hs).trans (bind_of_error heval)))
  · have heval := servoEval_setSt_ovf (e := e) rfl hadv hover
    exact raises_of_error hexec ((svPid_checked hactive hwf hcfg).trans ((ite_not_settling hs).trans (bind_of_error heval)))
  · obtain ⟨z, hz, heval⟩ := servoEval_setSt_committed (e := e) rfl hadv hfits
    exact ⟨z, hz, completes_of_ok hexec ((svPid_checked hactive hwf hcfg).trans
      ((ite_not_settling hs).trans (bind_of_ok heval rfl))) (emitAll_cmdCnt _ _)⟩

end Sys2Proof.Machine
end

section
/-! SUPPORT. `SV.DELAY` (R266 to R268). -/

namespace Sys2Proof.Machine

theorem exec_svDelay (c : CtxId) (a b : TsReg) (k : TiReg) (s : State) : exec (.svDelay c a b k) s = execSvDelay c a b k s := rfl

theorem lifetimeCheck_of_valid {x : Context} (h : LifetimesValid x) : lifetimeCheck x = .ok () := (lifetimes_iff x).mp h

/-- The two Timestamps of a sample are checked as one (R266, R270). -/
theorem needWf_pair_failed {α : Type} {t u : Timestamp} {r : Result α} (h : ¬ (WellFormed t ∧ WellFormed u)) :
    (do needWf t; needWf u; r) = .error .operand := by
  by_cases ht : WellFormed t
  · exact bind_of_ok (needWf_of_wellFormed ht) (bind_of_error (needWf_of_not_wellFormed fun hu => h ⟨ht, hu⟩))
  · exact bind_of_error (needWf_of_not_wellFormed ht)

theorem needWf_pair {α : Type} {t u : Timestamp} {r : Result α} (h : WellFormed t ∧ WellFormed u) : (do needWf t; needWf u; r) = r :=
  bind_of_ok (needWf_of_wellFormed h.1) (bind_of_ok (needWf_of_wellFormed h.2) rfl)

/-- What `SV.DELAY` asks of its operands and its context (R266). -/
structure DelayAccepted (c : CtxId) (a b : TsReg) (s : State) : Prop where
  active : c = s.svActive
  operands : WellFormed s.ts[a] ∧ WellFormed s.ts[b]
  legal : StateLegal s.sv[c]
  lifetimes : LifetimesValid s.sv[c]
  sample : s.sv[c].st.haveSample = true

/-- The pseudocode of `SV.DELAY` after its checks, for the one-way delay `s2m` (R266). -/
def delayRest (c : CtxId) (s2m : Int) (s : State) : Result (State × Bool) :=
  let x := s.sv[c]
  let raw := divT (x.st.m2s.toInt + s2m) 2
  if !fits64 s2m || decide (x.cfg.thrDelay.toInt ≤ absI raw) then return (setSt c { x.st with forceStep := true } s, false)
  else do
    let (F, out) ← fltStep x.flt[(0 : FltId)] (raw64 raw)
    let s := setFlt c 0 F s
    match out with
    | some y => return (setSt c { x.st with s2m := raw64 s2m, mpd := y, haveDelay := true } s, true)
    | none => return (setSt c { x.st with s2m := raw64 s2m } s, false)

section
variable {c : CtxId} {s2m : Int} {s : State}

/-- The delay is huge (R268). -/
def HugeDelay (x : Context) (s2m : Int) : Prop := ¬ Fits s2m ∨ x.cfg.thrDelay.toInt ≤ |(x.st.m2s.toInt + s2m).tdiv 2|

theorem hugeDelay_iff (x : Context) :
    (!fits64 s2m || decide (x.cfg.thrDelay.toInt ≤ absI (divT (x.st.m2s.toInt + s2m) 2))) = true ↔ HugeDelay x s2m := by
  rw [HugeDelay, Bool.or_eq_true, Bool.not_eq_true', ← not_fits_iff, decide_eq_true_eq, absI_eq, divT]

theorem delayRest_huge (h : HugeDelay s.sv[c] s2m) :
    delayRest c s2m s = .ok (setSt c { s.sv[c].st with forceStep := true } s, false) := if_pos ((hugeDelay_iff _).mpr h)

theorem delayRest_error {e : Err} (h : ¬ HugeDelay s.sv[c] s2m)
    (hF : fltStep s.sv[c].flt[(0 : FltId)] (raw64 ((s.sv[c].st.m2s.toInt + s2m).tdiv 2)) = .error e) : delayRest c s2m s = .error e :=
  (if_neg ((hugeDelay_iff _).not.mpr h)).trans (bind_of_error hF)

theorem delayRest_none {F : Filter} (h : ¬ HugeDelay s.sv[c] s2m)
    (hF : fltStep s.sv[c].flt[(0 : FltId)] (raw64 ((s.sv[c].st.m2s.toInt + s2m).tdiv 2)) = .ok (F, none)) :
    delayRest c s2m s = .ok (setSt c { s.sv[c].st with s2m := raw64 s2m } (setFlt c 0 F s), false) :=
  (if_neg ((hugeDelay_iff _).not.mpr h)).trans (bind_of_ok hF rfl)

theorem delayRest_some {F : Filter} {y : TimeInterval} (h : ¬ HugeDelay s.sv[c] s2m)
    (hF : fltStep s.sv[c].flt[(0 : FltId)] (raw64 ((s.sv[c].st.m2s.toInt + s2m).tdiv 2)) = .ok (F, some y)) :
    delayRest c s2m s
      = .ok (setSt c { s.sv[c].st with s2m := raw64 s2m, mpd := y, haveDelay := true } (setFlt c 0 F s), true) :=
  (if_neg ((hugeDelay_iff _).not.mpr h)).trans (bind_of_ok hF rfl)

end

section
variable {c : CtxId} {a b : TsReg} {k : TiReg} {s : State}

theorem svDelay_checked {α : Type} {r : Result α} (h : DelayAccepted c a b s) :
    (do needActive c s; needWf s.ts[a]; needWf s.ts[b]; cfgState s.sv[c]; lifetimeCheck s.sv[c]
        ensure s.sv[c].st.haveSample .discard; r) = r :=
  bind_of_ok (needActive_of_active h.active) ((needWf_pair h.operands).trans (bind_of_ok (cfgState_of_legal _ h.legal)
    (bind_of_ok (lifetimeCheck_of_valid h.lifetimes) (bind_of_ok (ensure_of_true h.sample _) rfl))))

theorem svDelay_raises {e : Err} (h : DelayAccepted c a b s) (hrest : delayRest c (delayOf s.ts[a] s.ts[b] s.ti[k]) s = .error e) :
    Raises (.svDelay c a b k) (errCode e) s := by
  rw [← oneWay_eq] at hrest
  exact raises_of_error (exec_svDelay c a b k s) ((svDelay_checked h).trans hrest)

theorem svDelay_completes {u : State} {v : Bool} (h : DelayAccepted c a b s)
    (hrest : delayRest c (delayOf s.ts[a] s.ts[b] s.ti[k]) s = .ok (u, v)) (hcnt : u.cmdCnt = s.cmdCnt) :
    Completes (.svDelay c a b k) v s u := by
  rw [← oneWay_eq] at hrest
  exact completes_of_ok (exec_svDelay c a b k s) ((svDelay_checked h).trans hrest) hcnt

theorem svDelay_discards (hactive : c = s.svActive) (hwf : WellFormed s.ts[a] ∧ WellFormed s.ts[b]) (hlegal : StateLegal s.sv[c])
    (h : ¬ (LifetimesValid s.sv[c] ∧ s.sv[c].st.haveSample = true)) : Raises (.svDelay c a b k) 8 s := by
  refine raises_of_error (e := .discard) (exec_svDelay c a b k s) (bind_of_ok (needActive_of_active hactive)
    ((needWf_pair hwf).trans (bind_of_ok (cfgState_of_legal _ hlegal) ?_)))
  by_cases hvalid : LifetimesValid s.sv[c]
  · exact bind_of_ok (lifetimeCheck_of_valid hvalid)
      (bind_of_error (ensure_of_false (Bool.eq_false_iff.mpr fun hsample => h ⟨hvalid, hsample⟩) _))
  · exact bind_of_error (lifetimeCheck_of_not _ hvalid)

end

/-- Settles O47: the checks in their order; then a huge delay sets its flag, and any other goes through the delay filter. -/
theorem delaySample : Obligations.DelaySample := by
  unfold Obligations.DelaySample
  intro c a b k s x ins s2m raw sample operands accepted huge
  have hexec := exec_svDelay c a b k s
  have hacc : accepted → DelayAccepted c a b s := fun ⟨h1, h2, h3, h4, h5⟩ => ⟨h1, h2, h3, h4, h5⟩
  refine ⟨decode_commandWord rfl, fun hinactive => ?_, fun hactive hill => ?_, fun hactive hwf hbad => ?_, svDelay_discards,
    fun h hbig => ?_, fun h hsmall hzero => ?_, fun h hsmall hperiod hovf => ?_, fun h hsmall hperiod hfits => ?_⟩
  · exact raises_of_error hexec (bind_of_error (needActive_of_inactive hinactive))
  · exact raises_of_error hexec (bind_of_ok (needActive_of_active hactive) (needWf_pair_failed hill))
  · exact raises_of_error hexec (bind_of_ok (needActive_of_active hactive) ((needWf_pair hwf).trans
      (bind_of_error (cfgState_of_reserved _ hbad))))
  · exact svDelay_completes (hacc h) (delayRest_huge hbig) rfl
  · exact svDelay_raises (hacc h) (delayRest_error hsmall (fltStep_cfg _ _ hzero))
  · exact svDelay_raises (hacc h) (delayRest_error hsmall (fltStep_ovf _ _ hperiod hovf))
  · obtain ⟨F, out, hstep, hsteps⟩ := fltStep_steps _ _ hperiod hfits
    refine ⟨F, out, hsteps, fun hnone => ?_, fun y hsome => ?_⟩
    · exact svDelay_completes (hacc h) (delayRest_none hsmall (hnone ▸ hstep)) rfl
    · exact svDelay_completes (hacc h) (delayRest_some hsmall (hsome ▸ hstep)) rfl

end Sys2Proof.Machine
end

section
/-! SUPPORT. The checks of `SV.OFFSET` and its sample while settling (R270, R279). -/

namespace Sys2Proof.Machine

theorem exec_svOffset (c : CtxId) (a b : TsReg) (k : TiReg) (s : State) : exec (.svOffset c a b k) s = execSvOffset c a b k s := rfl

/-- What `SV.OFFSET` asks of its operands and its context (R270). -/
structure OffsetAccepted (c : CtxId) (a b : TsReg) (s : State) : Prop where
  active : c = s.svActive
  operands : WellFormed s.ts[a] ∧ WellFormed s.ts[b]
  configured : PidConfigured s.sv[c]
  usable : LifetimesValid s.sv[c] ∧ Monotonic s.sv[c] s.ts[a] s.ts[b]

/-- The pseudocode of `SV.OFFSET` on an accepted sample outside settling, for the one-way delay `m2s` (R270). -/
def offsetRest (c : CtxId) (t1 t2 : Timestamp) (corr m2s : Int) (s : State) : Result (State × Bool) :=
  let x := s.sv[c]
  let raw := m2s - knownDelay x.st
  if stepTest x m2s raw then do
    let s ← doStep c raw t1 corr s
    return (s, false)
  else do
    let (F, out) ← fltStep x.flt[(1 : FltId)] (raw64 raw)
    let s := setFlt c 1 F (setSt c (withSample x.st m2s t1 t2) s)
    match out with
    | some y => do
      let s ← servoEval c y t2 (setSt c { withSample x.st m2s t1 t2 with offset := y } s)
      return (s, true)
    | none => return (s, false)

section
variable {c : CtxId} {a b : TsReg} {k : TiReg} {s : State}

theorem svOffset_checked {α : Type} {r : Result α} (h : OffsetAccepted c a b s) :
    (do needActive c s; needWf s.ts[a]; needWf s.ts[b]; cfgPid s.sv[c]; lifetimeCheck s.sv[c]
        monoCheck s.sv[c] s.ts[a] s.ts[b]; r) = r := by
  obtain ⟨hvalid, hmono⟩ := h.usable
  exact bind_of_ok (needActive_of_active h.active) ((needWf_pair h.operands).trans (bind_of_ok (cfgPid_of_configured h.configured)
    (bind_of_ok (lifetimeCheck_of_valid hvalid) (bind_of_ok ((monotonic_iff _ _ _).mp hmono) rfl))))

theorem svOffset_discards (hactive : c = s.svActive) (hwf : WellFormed s.ts[a] ∧ WellFormed s.ts[b]) (hcfg : PidConfigured s.sv[c])
    (h : ¬ (LifetimesValid s.sv[c] ∧ Monotonic s.sv[c] s.ts[a] s.ts[b])) : Raises (.svOffset c a b k) 8 s := by
  refine raises_of_error (e := .discard) (exec_svOffset c a b k s) (bind_of_ok (needActive_of_active hactive)
    ((needWf_pair hwf).trans (bind_of_ok (cfgPid_of_configured hcfg) ?_)))
  by_cases hvalid : LifetimesValid s.sv[c]
  · exact bind_of_ok (lifetimeCheck_of_valid hvalid) (bind_of_error (monoCheck_of_not _ _ _ fun hmono => h ⟨hvalid, hmono⟩))
  · exact bind_of_error (lifetimeCheck_of_not _ hvalid)

/-- While settling a delay that does not fit is discarded (R279). -/
theorem svOffset_settling_raises (h : OffsetAccepted c a b s) (hs : Settling s.sv[c]) (hbig : ¬ Fits (delayOf s.ts[a] s.ts[b] s.ti[k])) :
    Raises (.svOffset c a b k) 8 s := by
  rw [← oneWay_eq] at hbig
  exact raises_of_error (exec_svOffset c a b k s) ((svOffset_checked h).trans
    ((ite_settling hs).trans (bind_of_error (ensure_of_false ((not_fits_iff _).mp hbig) .discard))))

/-- While settling a sample is recorded (R279). -/
theorem svOffset_settling_completes (h : OffsetAccepted c a b s) (hs : Settling s.sv[c])
    (hfits : Fits (delayOf s.ts[a] s.ts[b] s.ti[k])) :
    Completes (.svOffset c a b k) false s
      (setSt c (withSample s.sv[c].st (delayOf s.ts[a] s.ts[b] s.ti[k]) s.ts[a] s.ts[b]) s) := by
  rw [← oneWay_eq] at hfits ⊢
  exact completes_of_ok (exec_svOffset c a b k s) ((svOffset_checked h).trans
    ((ite_settling hs).trans (bind_of_ok (ensure_of_true ((fits_iff _).mp hfits) .discard) rfl))) rfl

theorem svOffset_raises {e : Err} (h : OffsetAccepted c a b s) (hs : ¬ Settling s.sv[c])
    (hrest : offsetRest c s.ts[a] s.ts[b] s.ti[k].toInt (delayOf s.ts[a] s.ts[b] s.ti[k]) s = .error e) :
    Raises (.svOffset c a b k) (errCode e) s := by
  rw [← oneWay_eq] at hrest
  exact raises_of_error (exec_svOffset c a b k s) ((svOffset_checked h).trans ((ite_not_settling hs).trans hrest))

theorem svOffset_completes {u : State} {v : Bool} (h : OffsetAccepted c a b s) (hs : ¬ Settling s.sv[c])
    (hrest : offsetRest c s.ts[a] s.ts[b] s.ti[k].toInt (delayOf s.ts[a] s.ts[b] s.ti[k]) s = .ok (u, v))
    (hcnt : u.cmdCnt = s.cmdCnt) : Completes (.svOffset c a b k) v s u := by
  rw [← oneWay_eq] at hrest
  exact completes_of_ok (exec_svOffset c a b k s) ((svOffset_checked h).trans ((ite_not_settling hs).trans hrest)) hcnt

end

/-- Settles O48: the checks in their order, and the sample that is recorded while settling. -/
theorem offsetChecksAndSettling : Obligations.OffsetChecksAndSettling := by
  unfold Obligations.OffsetChecksAndSettling
  intro c a b k s x ins m2s operands usable
  have hexec := exec_svOffset c a b k s
  refine ⟨decode_commandWord rfl, fun hinactive => ?_, fun hactive hill => ?_, fun hactive hwf hbad => ?_, svOffset_discards,
    fun hactive hwf hcfg huse => svOffset_settling_raises ⟨hactive, hwf, hcfg, huse⟩,
    fun hactive hwf hcfg huse => svOffset_settling_completes ⟨hactive, hwf, hcfg, huse⟩⟩
  · exact raises_of_error hexec (bind_of_error (needActive_of_inactive hinactive))
  · exact raises_of_error hexec (bind_of_ok (needActive_of_active hactive) (needWf_pair_failed hill))
  · exact raises_of_error hexec (bind_of_ok (needActive_of_active hactive) ((needWf_pair hwf).trans
      (bind_of_error (cfgPid_of_not _ hbad))))

end Sys2Proof.Machine
end

section
/-! SUPPORT. The step path of `SV.OFFSET` (R276, R277). -/

namespace Sys2Proof.Machine

theorem steppedState_eq (st : ServoState) :
    steppedState st
      = { ServoState.zero with ratio := st.ratio, clockState := BitVec.ofNat 4 (stepColumn st.clockState.toNat) } := by
  rw [steppedState, settlingAfter_column]

theorem stepCall_delta {x : Context} {raw : Int} (h : Fits raw) (t1 : Timestamp) (corr : Int) :
    stepCall x raw t1 corr = .ok (.setTimeDelta (BitVec.ofNat 64 raw.natAbs) x.cfg.domain (decide (0 < raw))) :=
  if_pos ((fits_iff raw).mp h)

/-- A raw offset that does not fit asks for a time-of-day set (R277). -/
theorem stepCall_time {x : Context} {raw : Int} (h : ¬ Fits raw) (t1 : Timestamp) (corr : Int) :
    stepCall x raw t1 corr = (do let t ← tsChk (position t1 + corr + knownDelay x.st); return .setTime t x.cfg.domain) := by
  rw [position_eq]
  exact if_neg (Bool.eq_false_iff.mp ((not_fits_iff raw).mp h))

section
variable {c : CtxId} {raw : Int} {t1 : Timestamp} {corr : Int} {s : State} {call : Call}

/-- The state after the step's call, with the state registers cleared and the filters empty. -/
def clearedFor (c : CtxId) (call : Call) (s : State) : State := restart c (steppedState s.sv[c].st) (emit call s)

/-- The deadline of the settle timer. -/
def settleDeadline (c : CtxId) (s : State) : Nat := armDeadline s s.sv[c].cfg.settleTicks.toNat

/-- The state after a step (R276). -/
def afterStep (c : CtxId) (call : Call) (s : State) : State :=
  mirror c (event (evStepped ||| evStateChg) (setTimer (settleTimer c)
    (armedOnce s.tm[settleTimer c] s.sv[c].cfg.settleTicks (tickUs s) (settleDeadline c s)) (clearedFor c call s)))

theorem stepArming_eq :
    let w := resetFilters c (setSt c (steppedState s.sv[c].st) (emit call s))
    arm (settleTimer c) w.sv[c].cfg.settleTicks.toNat false w
      = arm (settleTimer c) s.sv[c].cfg.settleTicks.toNat false (clearedFor c call s) := by
  intro w
  have hw : w = clearedFor c call s := resetFilters_setSt c _ _
  rw [hw, clearedFor, restart_same]
  rfl

theorem doStep_completes (hcall : stepCall s.sv[c] raw t1 corr = .ok call) (h : settleDeadline c s < 18446744073709551616) :
    doStep c raw t1 corr s = .ok (afterStep c call s) :=
  bind_of_ok hcall (bind_of_ok (stepArming_eq.trans (arm_once (settleTimer c) (s := clearedFor c call s) h)) rfl)

/-- A step raises `E_OVF` when its deadline is out of range, whatever becomes of its call. -/
theorem doStep_late (h : 18446744073709551616 ≤ settleDeadline c s) : doStep c raw t1 corr s = .error .ovf := by
  cases hcall : stepCall s.sv[c] raw t1 corr with
  | ok call => exact bind_of_ok hcall (bind_of_error (stepArming_eq.trans (arm_late (settleTimer c) (s := clearedFor c call s) h)))
  | error e =>
    rw [stepCall_error _ _ _ _ _ hcall] at hcall
    exact bind_of_error hcall

variable {m2s : Int} {t2 : Timestamp}

theorem offsetRest_step (h : StepsClock s.sv[c] m2s) :
    offsetRest c t1 t2 corr m2s s = (do let s ← doStep c (rawOffset s.sv[c] m2s) t1 corr s; return (s, false)) :=
  if_pos ((stepTest_iff _ _).mpr h)

end

/-- Settles O49: the step is its call and then the arming of the settle timer; each of the two may raise `E_OVF`. -/
theorem offsetStepsClock : Obligations.OffsetStepsClock := by
  unfold Obligations.OffsetStepsClock
  intro c a b k s x ins m2s raw u ticks cleared stepped hactive hsend hrecv hcfg hvalid hmono hs hsteps
  have hacc : OffsetAccepted c a b s := ⟨hactive, ⟨hsend, hrecv⟩, hcfg, hvalid, hmono⟩
  have hstepped : ∀ call, stepped call (settleDeadline c s) = afterStep c call s := fun call => by
    rw [afterStep, clearedFor, steppedState_eq]
    rfl
  have hcompletes : ∀ call, settleDeadline c s < 18446744073709551616 → stepCall x raw s.ts[a] s.ti[k].toInt = .ok call →
      Completes ins false s (stepped call (settleDeadline c s)) := fun call hfits hcall => by
    rw [hstepped]
    exact svOffset_completes hacc hs ((offsetRest_step hsteps).trans (bind_of_ok (doStep_completes hcall hfits) rfl)) rfl
  refine ⟨settleDeadline c s, roundedUp_roundupTick s _, fun hlate => ?_, fun hbig hoff => ?_, fun hfits hraw => ?_,
    fun hfits hbig haxis => ?_⟩
  · exact svOffset_raises hacc hs ((offsetRest_step hsteps).trans (bind_of_error (doStep_late hlate)))
  · have hcall := (stepCall_time hbig s.ts[a] s.ti[k].toInt).trans (bind_of_error (tsChk_of_not_onAxis hoff))
    exact svOffset_raises hacc hs ((offsetRest_step hsteps).trans (bind_of_error (bind_of_error hcall)))
  · exact hcompletes _ hfits (stepCall_delta hraw _ _)
  · obtain ⟨t, hwf, hpos, hchk⟩ := tsChk_of_onAxis haxis
    exact ⟨t, hwf, hpos, hcompletes _ hfits ((stepCall_time hbig s.ts[a] s.ti[k].toInt).trans (bind_of_ok hchk rfl))⟩

end Sys2Proof.Machine
end

section
/-! SUPPORT. `SV.OFFSET` on a sample that is tracked (R270, R271). -/

namespace Sys2Proof.Machine

/-- The context with an accepted sample recorded and the filtered offset stored. -/
def trackedContext (x : Context) (m2s : Int) (t1 t2 : Timestamp) (y : TimeInterval) : Context :=
  { x with st := { withSample x.st m2s t1 t2 with offset := y } }

section
variable {c : CtxId} {t1 t2 : Timestamp} {corr m2s : Int} {s : State}

theorem offsetRest_error {e : Err} (h : ¬ StepsClock s.sv[c] m2s)
    (hF : fltStep s.sv[c].flt[(1 : FltId)] (raw64 (rawOffset s.sv[c] m2s)) = .error e) :
    offsetRest c t1 t2 corr m2s s = .error e :=
  (if_neg ((stepTest_iff _ _).not.mpr h)).trans (bind_of_error hF)

theorem offsetRest_none {F : Filter} (h : ¬ StepsClock s.sv[c] m2s)
    (hF : fltStep s.sv[c].flt[(1 : FltId)] (raw64 (rawOffset s.sv[c] m2s)) = .ok (F, none)) :
    offsetRest c t1 t2 corr m2s s = .ok (setFlt c 1 F (setSt c (withSample s.sv[c].st m2s t1 t2) s), false) :=
  (if_neg ((stepTest_iff _ _).not.mpr h)).trans (bind_of_ok hF rfl)

/-- On an emission the controller runs, with the recorded sample and the emitted offset in the state registers. -/
theorem offsetRest_some {F : Filter} {y : TimeInterval} (h : ¬ StepsClock s.sv[c] m2s)
    (hF : fltStep s.sv[c].flt[(1 : FltId)] (raw64 (rawOffset s.sv[c] m2s)) = .ok (F, some y)) :
    offsetRest c t1 t2 corr m2s s = (do
      let u ← servoEval c y t2 (setSt c (trackedContext s.sv[c] m2s t1 t2 y).st (setFlt c 1 F s))
      return (u, true)) := by
  rw [← setSt_setFlt_setSt c 1 F (withSample s.sv[c].st m2s t1 t2)]
  exact (if_neg ((stepTest_iff _ _).not.mpr h)).trans (bind_of_ok hF rfl)

end

/-- Settles O50: the offset filter, and the controller on what it emits. -/
theorem offsetTracked : Obligations.OffsetTracked := by
  unfold Obligations.OffsetTracked
  intro c a b k s x ins m2s sample recorded hactive hsend hrecv hcfg hvalid hmono hs hsteps
  have hacc : OffsetAccepted c a b s := ⟨hactive, ⟨hsend, hrecv⟩, hcfg, hvalid, hmono⟩
  refine ⟨fun hzero => ?_, fun hperiod hovf => ?_, fun hperiod hfits => ?_⟩
  · exact svOffset_raises hacc hs (offsetRest_error hsteps (fltStep_cfg _ _ hzero))
  · exact svOffset_raises hacc hs (offsetRest_error hsteps (fltStep_ovf _ _ hperiod hovf))
  · obtain ⟨F, out, hstep, hfilter⟩ := fltStep_steps _ _ hperiod hfits
    refine ⟨F, out, hfilter, fun hnone => ?_, fun y hsome => ?_⟩
    · exact svOffset_completes hacc hs (offsetRest_none hsteps (hnone ▸ hstep)) rfl
    · have hcontext : (setFlt c 1 F s).sv[c].cfg = (trackedContext x m2s s.ts[a] s.ts[b] y).cfg := setFlt_cfg c c 1 F s
      have hrest := offsetRest_some (t1 := s.ts[a]) (t2 := s.ts[b]) (corr := s.ti[k].toInt) hsteps (hsome ▸ hstep)
      refine ⟨fun hback => ?_, fun hadv hover => ?_, fun hadv heval => ?_⟩
      · exact svOffset_raises hacc hs (hrest.trans (bind_of_error (servoEval_setSt_operand hcontext hback)))
      · exact svOffset_raises hacc hs (hrest.trans (bind_of_error (servoEval_setSt_ovf hcontext hadv hover)))
      · obtain ⟨z, hz, hdone⟩ := servoEval_setSt_committed hcontext hadv heval
        exact ⟨z, hz, svOffset_completes hacc hs (hrest.trans (bind_of_ok hdone rfl)) (emitAll_cmdCnt _ _)⟩

end Sys2Proof.Machine
end

section
/-! SUPPORT. What the shared operations of the servo do to the clock states (R288). -/

namespace Sys2Proof.Machine

/-- Both clock states are those of `s`. -/
def SameClocks (s u : State) : Prop := ∀ d : CtxId, u.sv[d].st.clockState = s.sv[d].st.clockState

/-- From `s` to `u` the clock state of context `c` becomes `new`, that of the other stays, and a change sets `STATE_CHG`. -/
structure MovesClock (c : CtxId) (new : BitVec 4) (s u : State) : Prop where
  moved : u.sv[c].st.clockState = new
  others : ∀ d : CtxId, d ≠ c → u.sv[d].st.clockState = s.sv[d].st.clockState
  named : new ≠ s.sv[c].st.clockState → u.evt.getLsbD 8 = true

section
variable {c : CtxId} {new : BitVec 4} {s u w : State}

theorem MovesClock.of_same (hs : SameClocks s w) (h : MovesClock c new w u) : MovesClock c new s u :=
  ⟨h.moved, fun d hd => (h.others d hd).trans (hs d), fun hne => h.named (by rwa [hs])⟩

theorem MovesClock.mirror (h : MovesClock c new s u) (d : CtxId) : MovesClock c new s (mirror d u) :=
  ⟨(mirror_clockState d c u).trans h.moved, fun e he => (mirror_clockState d e u).trans (h.others e he), h.named⟩

theorem MovesClock.complete (h : MovesClock c new s u) (v : Bool) : MovesClock c new s (complete u v) := ⟨h.moved, h.others, h.named⟩

/-- A context whose clock state has changed is the one the command works on, and the change is named. -/
theorem MovesClock.changed (h : MovesClock c new s u) {d : CtxId} (hne : u.sv[d].st.clockState ≠ s.sv[d].st.clockState) :
    d = c ∧ u.evt.getLsbD 8 = true := by
  have hd : d = c := by_contra fun hd => hne (h.others d hd)
  subst hd
  exact ⟨rfl, h.named (h.moved ▸ hne)⟩

theorem getLsbD_event (b : BitVec 12) (s : State) (n : Nat) : (event b s).evt.getLsbD n = (s.evt.getLsbD n || b.getLsbD n) :=
  BitVec.getLsbD_or

/-- The state registers of `c` replaced, under an event that names a change. -/
theorem movesClock_event {b : BitVec 12} {st : ServoState} (hc : w.sv[c].st = st) (hd : ∀ d : CtxId, d ≠ c → w.sv[d].st = s.sv[d].st)
    (hb : st.clockState ≠ s.sv[c].st.clockState → b.getLsbD 8 = true) : MovesClock c st.clockState s (event b w) :=
  ⟨congrArg ServoState.clockState hc, fun d h => congrArg ServoState.clockState (hd d h), fun h => by
    rw [getLsbD_event, hb h, Bool.or_true]⟩

theorem freeRun_moves (c : CtxId) (st : ServoState) (s : State) (h : st.clockState = 0) : MovesClock c 0 s (freeRun c st s) := by
  rw [← h]
  refine movesClock_event (congrArg Context.st (restart_same c st s)) (fun d hd => congrArg Context.st (restart_ne hd st s)) ?_
  rw [h]
  intro hne
  rw [if_neg hne.symm]
  rfl

theorem doStep_moves {raw : Int} {t1 : Timestamp} {corr : Int} (h : doStep c raw t1 corr s = .ok u) :
    MovesClock c (BitVec.ofNat 4 (stepColumn s.sv[c].st.clockState.toNat)) s u ∧ u.trace ≠ s.trace := by
  obtain ⟨call, a, -, ha, rfl⟩ := doStep_ok c raw t1 corr s u h
  rw [resetFilters_setSt] at ha
  have hsv := arm_sv ha
  constructor
  · rw [← settlingAfter_column]
    refine MovesClock.mirror (movesClock_event (st := steppedState s.sv[c].st) ?_ (fun d hd => ?_) fun _ => rfl) c
    · rw [hsv, restart_same]
    · rw [hsv, restart_ne hd]
      rfl
  · obtain ⟨-, rfl⟩ := (arm_ok _ _ _ _ _).mp ha
    exact fun heq => List.cons_ne_nil call [] (List.append_right_eq_self.mp heq)

theorem evaluatedState_clock (g : ServoConfig) (st : ServoState) (off : TimeInterval) (now : Timestamp) (dt : TimeInterval)
    (p : PidTerms) (ratio : Reg) :
    let z := evaluatedState g st off now dt p ratio
    z.clockState = nextClock st.clockState (z.stableOffset && z.offsetOk) := by
  simp only [evaluatedState, classifyStability_eq, classifyOffset_eq, trackHoldover_eq]

/-- An evaluation moves the clock state by the PID columns, on the flags it leaves (R288). -/
theorem servoEval_moves {off : TimeInterval} {now : Timestamp} (h : servoEval c off now s = .ok u) :
    MovesClock c (nextClock s.sv[c].st.clockState (u.sv[c].st.stableOffset && u.sv[c].st.offsetOk)) s u := by
  obtain ⟨dt, p, ratio, -, -, -, st, hst, rfl⟩ := servoEval_ok c off now s u h
  have hclock := evaluatedState_clock s.sv[c].cfg s.sv[c].st off now dt p (outputCalls s.sv[c].cfg off.toInt ratio).2
  rw [← hst] at hclock
  rw [eventIf_changed, eventIf_holdover, event_event]
  generalize (outputCalls s.sv[c].cfg off.toInt ratio).1 = calls
  generalize (if s.sv[c].st.holdoverOk = false ∧ st.holdoverOk = true then (0x400 : BitVec 12) else 0) = ready
  have hafter : ∀ b, (mirror c (event b (setSt c st (emitAll calls s)))).sv[c].st = st := fun b =>
    (mirror_st_same c _).trans (setSt_st_same c st _)
  rw [hafter, ← hclock]
  refine MovesClock.mirror (movesClock_event (setSt_st_same c st _) (fun d hd => ?_) fun hne => ?_) c
  · rw [setSt_st_ne _ _ _ _ hd, emitAll_sv]
  · rw [BitVec.getLsbD_or, if_neg hne]
    exact Bool.or_true _

end

end Sys2Proof.Machine
end

section
/-! SUPPORT. What each command that may change a clock state does to the two clock states (R288). -/

namespace Sys2Proof.Machine

/-- The state number is defined and the context is not settling. -/
def Tracking (x : Context) : Prop := StateLegal x ∧ ¬ Settling x

theorem Tracking.of_checks {x : Context} (hcfg : cfgPid x = .ok ()) (hs : settling x.st.clockState = false) : Tracking x :=
  ⟨((pidConfigured_iff x).mpr hcfg).1, (not_settling_iff x).mp hs⟩

theorem Tracking.toNat {x : Context} (h : Tracking x) :
    x.st.clockState.toNat ≤ 8 ∧ x.st.clockState.toNat ≠ 2 ∧ x.st.clockState.toNat ≠ 6 := by
  obtain ⟨hlegal, hs⟩ := h
  exact ⟨hlegal, fun h2 => hs (.inl (BitVec.eq_of_toNat_eq h2)), fun h6 => hs (.inr (BitVec.eq_of_toNat_eq h6))⟩

theorem sameClocks_setSt {c : CtxId} {st : ServoState} {s : State} (h : st.clockState = s.sv[c].st.clockState) :
    SameClocks s (setSt c st s) := setSt_keeps_part ServoState.clockState h

/-- The stored offset is no part of the clock state. -/
theorem sameClocks_setOffset {c : CtxId} {st : ServoState} {s : State} (h : st.clockState = s.sv[c].st.clockState) (off : TimeInterval) :
    SameClocks s (setSt c { st with offset := off } s) := sameClocks_setSt h

theorem sameClocks_setFlt (c : CtxId) (f : FltId) (x : Filter) (s : State) : SameClocks s (setFlt c f x s) := fun d =>
  congrArg ServoState.clockState (setFlt_st c d f x s)

theorem SameClocks.trans {s u w : State} (h : SameClocks s u) (h' : SameClocks u w) : SameClocks s w := fun d => (h' d).trans (h d)

/-- The clock state is no part of a recorded sample. -/
theorem withSample_clockState (st : ServoState) (m2s : Int) (t1 t2 : Timestamp) : (withSample st m2s t1 t2).clockState = st.clockState := rfl

/-- The controller has run on context `c`: its clock state is that of the PID columns, on the flags that `t` shows. -/
abbrev Evaluated (c : CtxId) (s t : State) : Prop :=
  MovesClock c (nextClock s.sv[c].st.clockState (t.sv[c].st.stableOffset && t.sv[c].st.offsetOk)) s t

theorem servoEval_evaluated {c : CtxId} {off : TimeInterval} {now : Timestamp} {s w u : State} (hs : SameClocks s w)
    (h : servoEval c off now w = .ok u) : Evaluated c s u := by
  have hmoves := servoEval_moves h
  rw [hs c] at hmoves
  exact hmoves.of_same hs

section
variable {s t : State}

/-- `SV.OFFSET` leaves the clock states alone, steps the clock, or runs the controller. -/
theorem svOffset_clocks {c : CtxId} {a b : TsReg} {k : TiReg} (ht : Answers (.svOffset c a b k) s t) :
    (SameClocks s t ∧ t.status.valid = false ∧ t.trace = s.trace)
      ∨ (Tracking s.sv[c] ∧ t.status.ok = true ∧ t.status.valid = false ∧ t.trace ≠ s.trace
          ∧ MovesClock c (BitVec.ofNat 4 (stepColumn s.sv[c].st.clockState.toNat)) s t)
      ∨ (Tracking s.sv[c] ∧ t.status.valid = true ∧ Evaluated c s t) := by
  have hclock := withSample_clockState s.sv[c].st (oneWay s.ts[a] s.ts[b] (tiInt s k)) s.ts[a] s.ts[b]
  have hsampled := sameClocks_setSt hclock
  rcases svOffset_next c a b k s t ht with ⟨e, rfl, -⟩ | ⟨-, hcfg, hends⟩
  · exact .inl ⟨fun _ => rfl, rfl, rfl⟩
  · rcases hends with ⟨-, -, rfl⟩ | ⟨hs, -, u, hu, rfl⟩ | ⟨hs, -, F, ⟨-, rfl⟩ | ⟨y, u, -, hu, rfl⟩⟩
    · exact .inl ⟨hsampled, rfl, rfl⟩
    · obtain ⟨hmoves, htrace⟩ := doStep_moves hu
      exact .inr (.inl ⟨.of_checks hcfg hs, rfl, rfl, htrace, hmoves.complete false⟩)
    · exact .inl ⟨hsampled.trans (sameClocks_setFlt c 1 F _), rfl, rfl⟩
    · have hfiltered := hsampled.trans (sameClocks_setFlt c 1 F _)
      have hstored := hfiltered.trans (sameClocks_setOffset (hclock.trans (hfiltered c).symm) y)
      exact .inr (.inr ⟨.of_checks hcfg hs, rfl, (servoEval_evaluated hstored hu).complete true⟩)

theorem svPid_clocks {c : CtxId} {o : TiReg} {n : TsReg} (ht : Answers (.svPid c o n) s t) :
    (SameClocks s t ∧ t.status.valid = false) ∨ (Tracking s.sv[c] ∧ t.status.valid = true ∧ Evaluated c s t) := by
  rcases svPid_next c o n s t ht with ⟨e, rfl, -⟩ | ⟨-, -, rfl⟩ | ⟨u, -, hcfg, hs, hu, rfl⟩
  · exact .inl ⟨fun _ => rfl, rfl⟩
  · exact .inl ⟨fun _ => rfl, rfl⟩
  · exact .inr ⟨.of_checks hcfg hs, rfl, (servoEval_evaluated (sameClocks_setOffset rfl s.ti[o]) hu).complete true⟩

theorem svDelay_clocks {c : CtxId} {a b : TsReg} {k : TiReg} (ht : Answers (.svDelay c a b k) s t) : SameClocks s t := by
  have hdelays : ∀ F s2m mpd haveDelay, SameClocks s
      (setSt c { s.sv[c].st with s2m := s2m, mpd := mpd, haveDelay := haveDelay } (setFlt c 0 F s)) := fun F s2m mpd haveDelay =>
    (sameClocks_setFlt c 0 F s).trans (sameClocks_setSt (by rw [setFlt_st]))
  rcases svDelay_next c a b k s t ht with ⟨e, rfl, -⟩ | ⟨-, rfl⟩ | ⟨F, ⟨-, -, rfl⟩ | ⟨y, -, -, rfl⟩⟩
  · exact fun _ => rfl
  · exact sameClocks_setSt (st := { s.sv[c].st with forceStep := true }) rfl
  · exact hdelays F _ _ _
  · exact hdelays F _ _ _

theorem svReset_clocks {c : CtxId} (ht : Answers (.svReset c) s t) : t.status.ok = true ∧ MovesClock c 0 s t := by
  have hmoves := freeRun_moves c ServoState.zero s rfl
  by_cases hactive : c = s.svActive
  · rw [(svReset_completes_active hactive).eq ht]
    exact ⟨rfl, (hmoves.mirror c).complete false⟩
  · rw [(svReset_completes_inactive hactive).eq ht]
    exact ⟨rfl, hmoves.complete false⟩

theorem applyHoldover_clocks {c : CtxId} {u : State} (h : applyHoldover c s = .ok u) : SameClocks s u := by
  rcases applyHoldover_ok c s u h with ⟨-, rfl⟩ | ⟨-, r, -, rfl⟩
  · exact fun _ => rfl
  · exact sameClocks_setSt (s := emit (.setFrequencyRatio r s.sv[c].cfg.domain) s) rfl

theorem svLost_clocks {c : CtxId} (ht : Answers (.svLost c) s t) :
    (SameClocks s t ∧ t.status.ok = false) ∨ (t.status.ok = true ∧ MovesClock c 0 s t) := by
  rcases svLost_next c s t ht with ⟨e, rfl, -⟩ | ⟨-, -, u, hu, rfl⟩
  · exact .inl ⟨fun _ => rfl, rfl⟩
  · rw [freeRun_eq]
    exact .inr ⟨rfl, (((freeRun_moves c _ u rfl).of_same (applyHoldover_clocks hu)).mirror c).complete false⟩

/-- `SV.SWITCH` copies the active clock state to the other context. -/
theorem svSwitch_clocks (ht : Answers .svSwitch s t) :
    SameClocks s t ∨ MovesClock (otherCtx s.svActive) s.sv[s.svActive].st.clockState s t := by
  rcases failed_or_ok ht with ⟨e, rfl⟩ | hok
  · exact .inl fun _ => rfl
  · obtain ⟨hsv, hevt⟩ := svSwitch_ok ht hok
    refine .inr ⟨?_, fun d hd => ?_, fun hne => ?_⟩
    · rw [hsv, handedOver_new]
      rfl
    · obtain rfl : d = s.svActive := (ctx_cases s.svActive d).resolve_right hd
      rw [hsv, handedOver_old]
    · have hbits : t.evt = s.evt ||| 0x100 := by rw [hevt, handedOver, if_neg hne]
      rw [hbits, BitVec.getLsbD_or]
      exact Bool.or_true _

/-- `TM.TICK` runs the settle action of a context whose settle timer is due, and names a change. -/
theorem tmTick_clocks {a : TiReg} (ht : Answers (.tmTick a) s t) :
    (SameClocks s t ∧ t.status.ok = false)
      ∨ (t.status.ok = true ∧ ∀ c : CtxId, t.sv[c].st.clockState = tickedClock s s.ti[a].toNat c
          ∧ (t.sv[c].st.clockState ≠ s.sv[c].st.clockState → t.evt.getLsbD 8 = true)) := by
  rcases failed_or_ok ht with ⟨e, rfl⟩ | hok
  · exact .inl ⟨fun _ => rfl, rfl⟩
  · obtain ⟨hsv, hevt⟩ := tmTick_ok ht hok
    refine .inr ⟨hok, fun c => ⟨by rw [hsv]; rfl, fun hne => ?_⟩⟩
    rw [hsv] at hne
    have hchanged : ¬ (tickedClock s s.ti[a].toNat 0 = s.sv[(0 : CtxId)].st.clockState
        ∧ tickedClock s s.ti[a].toNat 1 = s.sv[(1 : CtxId)].st.clockState) := fun ⟨h0, h1⟩ =>
      hne (match c with | 0 => h0 | 1 => h1)
    rw [hevt, tickEvents, if_neg hchanged, BitVec.getLsbD_or, BitVec.getLsbD_or]
    exact (congrArg _ (Bool.or_true _)).trans (Bool.or_true _)

end

end Sys2Proof.Machine
end

section
/-! SUPPORT. The transition table (R288): what each event of it does, and that a change has one of its causes. -/

namespace Sys2Proof.Machine

/-- The command has run the controller of context `c`. -/
abbrev Ran (i : Instr) (t : State) (c : CtxId) : Prop :=
  t.status.valid = true ∧ ((∃ a b k, i = .svOffset c a b k) ∨ ∃ o n, i = .svPid c o n)

/-- The command has stepped the clock from context `c`. -/
abbrev Stepped (i : Instr) (s t : State) (c : CtxId) : Prop :=
  t.status.ok = true ∧ t.status.valid = false ∧ t.trace ≠ s.trace ∧ ∃ a b k, i = .svOffset c a b k

/-- The command has run the settle action of context `c`. -/
abbrev Settled (i : Instr) (s t : State) (c : CtxId) : Prop :=
  t.status.ok = true ∧ ∃ a, i = .tmTick a ∧ Due s.tm[settleTimer c] s.ti[a].toNat

/-- The command has brought context `c` back to `FREERUN`. -/
abbrev Freed (i : Instr) (t : State) (c : CtxId) : Prop := t.status.ok = true ∧ (i = .svReset c ∨ i = .svLost c)

/-- The command has a reason to change the clock state of context `c`, and names the change. -/
def Explained (i : Instr) (s t : State) (c : CtxId) : Prop :=
  (Ran i t c ∨ Stepped i s t c ∨ Settled i s t c ∨ Freed i t c ∨ i = .sysReset
      ∨ (i = .svSwitch ∧ c = otherCtx s.svActive ∧ t.sv[c].st.clockState = s.sv[s.svActive].st.clockState))
    ∧ (i ≠ .sysReset → t.evt.getLsbD 8 = true)

theorem stepColumn_toNat (b : BitVec 4) : (BitVec.ofNat 4 (stepColumn b.toNat)).toNat = stepColumn b.toNat := by
  revert b
  decide

theorem settledClock_toNat (b : BitVec 4) : (settledClock b).toNat = settleColumn b.toNat := by
  revert b
  decide

section
variable {i : Instr} {s t : State} {c : CtxId}

theorem Ran.evaluated (h : Ran i t c) (ht : Answers i s t) : Tracking s.sv[c] ∧ Evaluated c s t := by
  rcases h with ⟨hvalid, ⟨a, b, k, rfl⟩ | ⟨o, n, rfl⟩⟩
  · rcases svOffset_clocks ht with ⟨-, hnone, -⟩ | ⟨-, -, hnone, -⟩ | ⟨htracking, -, heval⟩
    · exact absurd hvalid (Bool.eq_false_iff.mp hnone)
    · exact absurd hvalid (Bool.eq_false_iff.mp hnone)
    · exact ⟨htracking, heval⟩
  · rcases svPid_clocks ht with ⟨-, hnone⟩ | ⟨htracking, -, heval⟩
    · exact absurd hvalid (Bool.eq_false_iff.mp hnone)
    · exact ⟨htracking, heval⟩

theorem Stepped.moves (h : Stepped i s t c) (ht : Answers i s t) :
    Tracking s.sv[c] ∧ MovesClock c (BitVec.ofNat 4 (stepColumn s.sv[c].st.clockState.toNat)) s t := by
  obtain ⟨-, hnone, htrace, a, b, k, rfl⟩ := h
  rcases svOffset_clocks ht with ⟨-, -, hquiet⟩ | ⟨htracking, -, -, -, hmoves⟩ | ⟨-, hvalid, -⟩
  · exact absurd hquiet htrace
  · exact ⟨htracking, hmoves⟩
  · exact absurd hvalid (Bool.eq_false_iff.mp hnone)

theorem Settled.moved (h : Settled i s t c) (ht : Answers i s t) : t.sv[c].st.clockState = settledClock s.sv[c].st.clockState := by
  obtain ⟨hok, a, rfl, hdue⟩ := h
  rcases tmTick_clocks ht with ⟨-, hfailed⟩ | ⟨-, hticked⟩
  · exact absurd hok (Bool.eq_false_iff.mp hfailed)
  · exact (hticked c).1.trans (tickedClock_of_due hdue)

theorem Freed.moved (h : Freed i t c) (ht : Answers i s t) : t.sv[c].st.clockState = 0 := by
  rcases h with ⟨hok, rfl | rfl⟩
  · exact (svReset_clocks ht).2.moved
  · rcases svLost_clocks ht with ⟨-, hfailed⟩ | ⟨-, hmoves⟩
    · exact absurd hok (Bool.eq_false_iff.mp hfailed)
    · exact hmoves.moved

/-- A command that changes the clock state of a context is one of the causes, by a split on the command. -/
theorem explained (i : Instr) (c : CtxId) :
    ∀ s t, Answers i s t → t.sv[c].st.clockState ≠ s.sv[c].st.clockState → Explained i s t c := by
  refine servo_cases (P := fun i => ∀ s t, Answers i s t → t.sv[c].st.clockState ≠ s.sv[c].st.clockState → Explained i s t c)
    (fun d s t ht hne => ?svReset) (fun d a b k s t ht hne => absurd (svDelay_clocks ht c) hne) (fun d a b k s t ht hne => ?svOffset)
    (fun d o n s t ht hne => ?svPid) (fun s t ht hne => ?svSwitch) (fun d s t ht hne => ?svLost) (fun a s t ht hne => ?tmTick)
    (fun s t ht hne => ?sysReset) (fun i hkeeps _ s t ht hne => absurd (congrArg ServoState.clockState (hkeeps s t ht c)) hne) i
  case svReset =>
    obtain ⟨hok, hmoves⟩ := svReset_clocks ht
    obtain ⟨rfl, hnamed⟩ := hmoves.changed hne
    exact ⟨.inr (.inr (.inr (.inl ⟨hok, .inl rfl⟩))), fun _ => hnamed⟩
  case svOffset =>
    rcases svOffset_clocks ht with ⟨hsame, -⟩ | ⟨-, hok, hnone, htrace, hmoves⟩ | ⟨-, hvalid, heval⟩
    · exact absurd (hsame c) hne
    · obtain ⟨rfl, hnamed⟩ := hmoves.changed hne
      exact ⟨.inr (.inl ⟨hok, hnone, htrace, a, b, k, rfl⟩), fun _ => hnamed⟩
    · obtain ⟨rfl, hnamed⟩ := heval.changed hne
      exact ⟨.inl ⟨hvalid, .inl ⟨a, b, k, rfl⟩⟩, fun _ => hnamed⟩
  case svPid =>
    rcases svPid_clocks ht with ⟨hsame, -⟩ | ⟨-, hvalid, heval⟩
    · exact absurd (hsame c) hne
    · obtain ⟨rfl, hnamed⟩ := heval.changed hne
      exact ⟨.inl ⟨hvalid, .inr ⟨o, n, rfl⟩⟩, fun _ => hnamed⟩
  case svSwitch =>
    rcases svSwitch_clocks ht with hsame | hmoves
    · exact absurd (hsame c) hne
    · obtain ⟨rfl, hnamed⟩ := hmoves.changed hne
      exact ⟨.inr (.inr (.inr (.inr (.inr ⟨rfl, rfl, hmoves.moved⟩)))), fun _ => hnamed⟩
  case svLost =>
    rcases svLost_clocks ht with ⟨hsame, -⟩ | ⟨hok, hmoves⟩
    · exact absurd (hsame c) hne
    · obtain ⟨rfl, hnamed⟩ := hmoves.changed hne
      exact ⟨.inr (.inr (.inr (.inl ⟨hok, .inr rfl⟩))), fun _ => hnamed⟩
  case tmTick =>
    rcases tmTick_clocks ht with ⟨hsame, -⟩ | ⟨hok, hticked⟩
    · exact absurd (hsame c) hne
    · obtain ⟨hclock, hnamed⟩ := hticked c
      have hdue : Due s.tm[settleTimer c] s.ti[a].toNat := by_contra fun h => hne (hclock.trans (tickedClock_of_not_due h))
      exact ⟨.inr (.inr (.inl ⟨hok, a, rfl, hdue⟩)), fun _ => hnamed hne⟩
  case sysReset => exact ⟨.inr (.inr (.inr (.inr (.inl rfl)))), fun h => absurd rfl h⟩

end

/-- A host write of `SV_STATE` puts the low four bits in the clock state (R37). -/
theorem writeServoState_clockState (v : Reg) (st : ServoState) : (writeServoState v st 0x18).clockState = v.setWidth 4 :=
  (BitVec.setWidth_eq_extractLsb' (by decide)).symm

theorem csrWrite_svState (c : CtxId) (v : Reg) (s : State) :
    (csrWrite (BitVec.ofNat 12 (0x118 + 0x40 * c.val)) v s).sv[c].st = writeServoState v s.sv[c].st 0x18 := by
  have hwrite : csrWrite (BitVec.ofNat 12 (0x118 + 0x40 * c.val)) v s
      = { s with sv := s.sv.set c.val (writeContext v s.sv[c] 0x18) } :=
    match c with
    | 0 => rfl
    | 1 => rfl
  rw [hwrite]
  exact congrArg Context.st (get_set_same _ _ _)

/-- Settles O54: the columns from what each command of the table does to the clock states, their completeness from a split on the
command. -/
theorem clockTransitions : Obligations.ClockTransitions := by
  unfold Obligations.ClockTransitions
  refine ⟨fun i s t c ht => ?_, fun c v s => by rw [csrWrite_svState, writeServoState_clockState]⟩
  intro old new good ran stepped settled dropped
  have hexplained : new ≠ old → Explained i s t c := fun h => explained i c s t ht fun heq => h (congrArg BitVec.toNat heq)
  refine ⟨fun h => ?_, fun h => ?_, fun h => ?_, fun h => ?_, fun h => ?_, fun h => (hexplained h).2⟩
  · obtain ⟨htracking, heval⟩ := Ran.evaluated h ht
    exact ⟨(congrArg BitVec.toNat heval.moved).trans (nextClock_column _ _), htracking.toNat⟩
  · obtain ⟨htracking, hmoves⟩ := Stepped.moves h ht
    exact ⟨(congrArg BitVec.toNat hmoves.moved).trans (stepColumn_toNat _), htracking.toNat⟩
  · exact (congrArg BitVec.toNat (Settled.moved h ht)).trans (settledClock_toNat _)
  · exact congrArg BitVec.toNat (Freed.moved h ht)
  · rcases (hexplained h).1 with hran | hstep | hsettle | hfree | hreset | ⟨hswitch, hc, hcopy⟩
    · exact .inl hran
    · exact .inr (.inl hstep)
    · exact .inr (.inr (.inl hsettle))
    · exact .inr (.inr (.inr (.inl hfree)))
    · exact .inr (.inr (.inr (.inr (.inl hreset))))
    · exact .inr (.inr (.inr (.inr (.inr ⟨hswitch, hc, congrArg BitVec.toNat hcopy⟩))))

end Sys2Proof.Machine
end

section
/-! SUPPORT. The `CC.*` commands (R322 to R326): how each ends. -/

namespace Sys2Proof.Machine

theorem exec_ccFreq (a : TiReg) (dom : Domain) (s : State) :
    exec (.ccFreq a dom) s = command (plain fun s => emit (.setFrequencyRatio s.ti[a] dom) s) s := rfl

/-- The pseudocode of `CC.SETTIME` (R323). -/
def ccSetTimeBody (b : TsReg) (dom : Domain) : Body := fun s => do
  needWf s.ts[b]
  return (emit (.setTime s.ts[b] dom) s, false)

theorem exec_ccSetTime (b : TsReg) (dom : Domain) (s : State) : exec (.ccSetTime b dom) s = command (ccSetTimeBody b dom) s := rfl

/-- The call of `CC.DELTA` (R324). -/
def deltaCall (delta : TimeInterval) (dom : Domain) : Call := .setTimeDelta (magnitude delta.toInt) dom (decide (delta.toInt < 0))

theorem exec_ccDelta (a : TiReg) (dom : Domain) (s : State) :
    exec (.ccDelta a dom) s = command (plain fun s => emit (deltaCall s.ti[a] dom) s) s := rfl

theorem exec_ccPhase (a : TiReg) (dom : Domain) (s : State) :
    exec (.ccPhase a dom) s = command (plain fun s => emit (.adjustPhase s.ti[a] dom) s) s := rfl

theorem exec_ccGetTime (d : TsReg) (dom : Domain) (s : State) :
    exec (.ccGetTime d dom) s = command (plain fun s => takeAnswer d (emit (.getTime dom) s)) s := rfl

section
variable (a : TiReg) (b : TsReg) (dom : Domain) {s : State}

theorem ccFreq_completes : Completes (.ccFreq a dom) false s (emit (.setFrequencyRatio s.ti[a] dom) s) :=
  completes_plain (exec_ccFreq a dom s) rfl

theorem ccSetTime_completes (h : WellFormed s.ts[b]) : Completes (.ccSetTime b dom) false s (emit (.setTime s.ts[b] dom) s) :=
  completes_of_ok (exec_ccSetTime b dom s) (by rw [ccSetTimeBody, needWf_of_wellFormed h, ok_bind]; rfl) rfl

theorem ccSetTime_raises (h : ¬ WellFormed s.ts[b]) : Raises (.ccSetTime b dom) 4 s :=
  raises_of_error (exec_ccSetTime b dom s) (e := .operand) (by rw [ccSetTimeBody, needWf_of_not_wellFormed h, error_bind])

theorem ccDelta_completes : Completes (.ccDelta a dom) false s (emit (deltaCall s.ti[a] dom) s) :=
  completes_plain (f := fun s => emit (deltaCall s.ti[a] dom) s) (exec_ccDelta a dom s) rfl

theorem ccPhase_completes : Completes (.ccPhase a dom) false s (emit (.adjustPhase s.ti[a] dom) s) :=
  completes_plain (exec_ccPhase a dom s) rfl

theorem ccGetTime_completes (d : TsReg) : Completes (.ccGetTime d dom) false s (takeAnswer d (emit (.getTime dom) s)) :=
  completes_plain (exec_ccGetTime d dom s) rfl

end

/-- Settles O56: every `CC.*` command but `CC.SETTIME` is a plain emission of its call, and that one first checks its Timestamp. -/
theorem clockControlCalls : Obligations.ClockControlCalls := by
  unfold Obligations.ClockControlCalls
  intro a b dom s
  have hdom := (BitVec.ofNat_toNat 12 dom).symm
  exact ⟨decode_commandWord (hdom ▸ rfl), decode_commandWord (hdom ▸ rfl), decode_commandWord (hdom ▸ rfl),
    decode_commandWord (hdom ▸ rfl), ccFreq_completes a dom, ccSetTime_completes b dom, ccSetTime_raises b dom,
    ccDelta_completes a dom, ccPhase_completes a dom⟩

/-! The answer of the port (R329). -/

theorem answerTime_wellFormed (ans : PortAnswer) : WellFormed (answerTime ans) := (wellFormed_iff _).mpr (answerTime_wf ans)

section
variable {x : Inputs} {ans : PortAnswer} {left : List PortAnswer}

theorem nextAnswer_of_scheduled (h : x.answers = ans :: left) : nextAnswer x = ans := by rw [nextAnswer, h]

theorem afterAnswer_of_scheduled (h : x.answers = ans :: left) : afterAnswer x = { x with answers := left } := by
  rw [afterAnswer, h]

theorem nextAnswer_of_none (h : x.answers = []) : nextAnswer x = Config.portAnswer x.draws := by rw [nextAnswer, h]

theorem afterAnswer_of_none (h : x.answers = []) : afterAnswer x = { x with draws := x.draws + 1 } := by rw [afterAnswer, h]

end

/-- What `CC.GETTIME` takes in is the answer with which the inputs go on (R326). -/
theorem takeAnswer_eq (d : TsReg) (s : State) {ans : PortAnswer} {after : Inputs} (hnext : nextAnswer s.inputs = ans)
    (hafter : afterAnswer s.inputs = after) :
    takeAnswer d s = { setTs d (answerTime ans) s with
      cc := { s.cc with tickCnt := ans.tick }, dout0 := ans.tick, inputs := after } := by
  subst hnext hafter
  rfl

/-- Settles O57: the port's answer is the next one scheduled or a draw, and `takeAnswer` writes it and uses it up. -/
theorem getTimeAnswers : Obligations.GetTimeAnswers := by
  unfold Obligations.GetTimeAnswers
  intro d dom s ans left time told
  have hdom := (BitVec.ofNat_toNat 12 dom).symm
  have hcompletes := ccGetTime_completes dom (s := s) d
  refine ⟨decode_commandWord (hdom ▸ rfl), answerTime_wellFormed ans, fun hscheduled => ?_, fun hnone hdraw => ?_⟩
  · rwa [takeAnswer_eq d (emit (.getTime dom) s) (nextAnswer_of_scheduled hscheduled) (afterAnswer_of_scheduled hscheduled)] at hcompletes
  · rwa [takeAnswer_eq d (emit (.getTime dom) s) ((nextAnswer_of_none hnone).trans hdraw.symm) (afterAnswer_of_none hnone)] at hcompletes

end Sys2Proof.Machine
end

section
/-! SUPPORT. The clock-control port (R320, R321): what a part of a command's pseudocode adds to the trace, and what the record shows of
it. -/

namespace Sys2Proof.Machine

/-- The trace and the record of the port. -/
def port (s : State) : List Call × CallRecord := (s.trace, s.cc)

theorem port_eq {s u : State} (htrace : u.trace = s.trace) (hcc : u.cc = s.cc) : port u = port s := Prod.ext htrace hcc

/-- The calls `cs` are made, in order, between `s` and `u`: the trace grows by them, they are counted, and the record shows the last one;
without a call it stays. -/
structure Makes (cs : List Call) (s u : State) : Prop where
  trace : u.trace = s.trace ++ cs
  count : u.cc.count = s.cc.count + BitVec.ofNat 64 cs.length
  silent : cs = [] → u.cc = s.cc
  shown : ∀ c, cs.getLast? = some c → Shows u.cc c

theorem makes_nil {s u : State} (h : port u = port s) : Makes [] s u := by
  obtain ⟨htrace, hcc⟩ := Prod.mk.inj h
  exact ⟨htrace.trans (List.append_nil _).symm, by rw [hcc]; exact (BitVec.add_zero _).symm, fun _ => hcc, fun _ hlast => nomatch hlast⟩

theorem Makes.trans {cs ds : List Call} {s u w : State} (h : Makes cs s u) (k : Makes ds u w) : Makes (cs ++ ds) s w where
  trace := by rw [k.trace, h.trace, List.append_assoc]
  count := by rw [k.count, h.count, List.length_append, BitVec.ofNat_add, BitVec.add_assoc]
  silent := fun hnil => by
    obtain ⟨hcs, hds⟩ := List.append_eq_nil_iff.mp hnil
    exact (k.silent hds).trans (h.silent hcs)
  shown := fun c hlast => by
    rw [List.getLast?_append] at hlast
    cases hds : ds.getLast? with
    | none =>
      rw [hds, Option.none_or] at hlast
      rw [k.silent (List.getLast?_eq_none_iff.mp hds)]
      exact h.shown c hlast
    | some d =>
      rw [hds, Option.some_or] at hlast
      exact k.shown c (hds.trans hlast)

/-- A part that leaves the port alone may follow the calls. -/
theorem Makes.before {cs : List Call} {s u w : State} (h : Makes cs s u) (hw : port w = port u) : Makes cs s w :=
  List.append_nil cs ▸ h.trans (makes_nil hw)

/-- A part that leaves the port alone may precede the calls. -/
theorem Makes.after {cs : List Call} {s w u : State} (h : Makes cs w u) (hw : port w = port s) : Makes cs s u :=
  (makes_nil hw).trans h

/-! One call: the record has the layout of R321. -/

/-- A field of up to 32 bits above another one. -/
theorem toNat_fieldAt_pair {m n : Nat} (x : BitVec m) (y : BitVec n) (hm : m ≤ 32) (hn : n ≤ 32) :
    (fieldAt 32 x ||| fieldAt 0 y).toNat = x.toNat * 4294967296 + y.toNat := by
  have hx : x.toNat < 2 ^ 32 := x.isLt.trans_le (Nat.pow_le_pow_right (by decide) hm)
  have hy : y.toNat < 2 ^ 32 := y.isLt.trans_le (Nat.pow_le_pow_right (by decide) hn)
  have hhigh : (fieldAt 32 x).toNat = x.toNat <<< 32 := by
    rw [fieldAt, BitVec.toNat_shiftLeft, BitVec.toNat_setWidth_of_le (by omega), Nat.shiftLeft_eq]
    exact Nat.mod_eq_of_lt (by omega)
  have hlow : (fieldAt 0 y).toNat = y.toNat := by
    rw [fieldAt, BitVec.shiftLeft_zero, BitVec.toNat_setWidth_of_le (by omega)]
  rw [BitVec.toNat_or, hhigh, hlow, ← Nat.shiftLeft_add_eq_or_of_lt hy, Nat.shiftLeft_eq]

theorem recordCall_count (r : CallRecord) (c : Call) : (recordCall r c).count = r.count + 1 := by cases c <;> rfl

theorem recordCall_shows (r : CallRecord) (c : Call) : Shows (recordCall r c) c := by
  cases c with
  | setTime t d =>
    exact ⟨rfl, rfl, rfl, toNat_fieldAt_pair t.secMsb t.sec (by decide) (by decide),
      toNat_fieldAt_pair t.ns t.frac (by decide) (by decide)⟩
  | setFrequencyRatio _ _ | setTimeDelta _ _ _ | adjustPhase _ _ | getTime _ => exact ⟨rfl, rfl, rfl, rfl, rfl⟩

theorem emit_makes (c : Call) (s : State) : Makes [c] s (emit c s) where
  trace := rfl
  count := recordCall_count s.cc c
  silent := fun h => absurd h (List.cons_ne_nil c [])
  shown := fun _ h => Option.some.inj h ▸ recordCall_shows s.cc c

theorem emitAll_makes (cs : List Call) (s : State) : Makes cs s (emitAll cs s) := by
  induction cs generalizing s with
  | nil => exact makes_nil rfl
  | cons c cs ih => exact (emit_makes c s).trans (ih (emit c s))

/-- The tick count of an answer is no part of what the record shows of a call. -/
theorem takeAnswer_makes (d : TsReg) (dom : Domain) (s : State) : Makes [.getTime dom] s (takeAnswer d (emit (.getTime dom) s)) where
  trace := rfl
  count := rfl
  silent := fun h => absurd h (List.cons_ne_nil _ [])
  shown := fun _ h => Option.some.inj h ▸ ⟨rfl, rfl, rfl, rfl, rfl⟩

/-! The shared operations that make no call. -/

@[simp] theorem setTi_port (i : TiReg) (v : TimeInterval) (s : State) : port (setTi i v s) = port s := rfl

@[simp] theorem setSt_port (c : CtxId) (st : ServoState) (s : State) : port (setSt c st s) = port s := rfl

@[simp] theorem setFlt_port (c : CtxId) (f : FltId) (x : Filter) (s : State) : port (setFlt c f x s) = port s := rfl

@[simp] theorem resetFilters_port (c : CtxId) (s : State) : port (resetFilters c s) = port s := rfl

@[simp] theorem mirror_port (c : CtxId) (s : State) : port (mirror c s) = port s := rfl

@[simp] theorem setTimer_port (i : TmrId) (t : Timer) (s : State) : port (setTimer i t s) = port s := rfl

@[simp] theorem disarm_port (i : TmrId) (s : State) : port (disarm i s) = port s := rfl

@[simp] theorem event_port (b : BitVec 12) (s : State) : port (event b s) = port s := rfl

@[simp] theorem eventIf_port (c : Bool) (b : BitVec 12) (s : State) : port (eventIf c b s) = port s := by cases c <;> rfl

@[simp] theorem fire_port (i : TmrId) (s : State) : port (fire i s) = port s := by
  rw [fire_frame]
  rfl

@[simp] theorem complete_port (s : State) (v : Bool) : port (complete s v) = port s := rfl

@[simp] theorem takeError_port (e : Err) (s : State) : port (takeError e s) = port s := rfl

@[simp] theorem ended_port (s u : State) (v : Bool) : port (ended s u v) = port u := rfl

theorem arm_port {i : TmrId} {ticks : Nat} {rep : Bool} {s u : State} (h : arm i ticks rep s = .ok u) : port u = port s := by
  obtain ⟨-, rfl⟩ := (arm_ok i ticks rep s u).mp h
  rfl

theorem tickOne_port (now : Nat) (acc : State × Bool) (i : TmrId) : Post (tickOne now acc i) fun p => port p.1 = port acc.1 := by
  obtain ⟨s, fired⟩ := acc
  rintro ⟨u, g⟩ hu
  rcases tickOne_ok now s u fired g i hu with ⟨-, -, rfl, -⟩ | ⟨-, -, -, -, t, -, rfl⟩ | ⟨-, rfl, -⟩
  · exact disarm_port i s
  · exact (fire_port i _).trans (setTimer_port i t s)
  · rfl

theorem foldTicks_port (now : Nat) (is : List TmrId) (acc : State × Bool) :
    Post (is.foldlM (tickOne now) acc) fun p => port p.1 = port acc.1 := by
  induction is generalizing acc with
  | nil => exact post_pure rfl
  | cons i is ih =>
    rw [List.foldlM_cons]
    exact post_bind (tickOne_port now acc i) fun a ha => post_mono (ih a) fun _ hp => hp.trans ha

/-! The shared operations of the servo that make calls (R276, R281, R292). -/

section
variable {c : CtxId} {s u : State}

theorem doStep_makes {raw : Int} {t1 : Timestamp} {corr : Int} (h : doStep c raw t1 corr s = .ok u) :
    ∃ call, stepCall s.sv[c] raw t1 corr = .ok call ∧ Makes [call] s u := by
  obtain ⟨call, armed, hcall, harm, rfl⟩ := doStep_ok c raw t1 corr s u h
  refine ⟨call, hcall, (emit_makes call s).before ?_⟩
  rw [mirror_port, event_port, arm_port harm, resetFilters_port, setSt_port]

theorem servoEval_makes {off : TimeInterval} {now : Timestamp} (h : servoEval c off now s = .ok u) :
    ∃ ratio, Makes (outputCalls s.sv[c].cfg off.toInt ratio).1 s u := by
  obtain ⟨dt, p, ratio, -, -, -, st, -, rfl⟩ := servoEval_ok c off now s u h
  refine ⟨ratio, (emitAll_makes _ s).before ?_⟩
  simp only [mirror_port, eventIf_port, setSt_port]

theorem applyHoldover_makes (h : applyHoldover c s = .ok u) :
    Makes [] s u ∨ ∃ ratio, Makes [.setFrequencyRatio ratio s.sv[c].cfg.domain] s u := by
  rcases applyHoldover_ok c s u h with ⟨-, rfl⟩ | ⟨-, r, -, rfl⟩
  · exact .inl (makes_nil rfl)
  · refine .inr ⟨r, (emit_makes _ s).before ?_⟩
    rw [event_port, setSt_port]

end

end Sys2Proof.Machine
end

section
/-! SUPPORT. The calls of each command (R289, R322 to R326, R331). -/

namespace Sys2Proof.Machine

/-- The arguments of a call that R321 bounds: a set time is a point in time, a delta is at most 2^63. -/
def Call.Bounded : Call → Prop
  | .setTime t _ => WellFormed t
  | .setTimeDelta v _ _ => v.toNat ≤ 9223372036854775808
  | .setFrequencyRatio .. | .adjustPhase .. | .getTime .. => True

/-- Between `s` and `t` the command `i` makes the calls `cs`, one of its sequences, with arguments in their bounds. -/
structure PortUse (i : Instr) (cs : List Call) (s t : State) : Prop where
  makes : Makes cs s t
  rule : cs.map callOp ∈ callsOf i
  bounded : ∀ c ∈ cs, c.Bounded

/-- Whatever the command answers, it has made one of its sequences of calls. -/
def CallsByRule (i : Instr) : Prop := ∀ s t, Answers i s t → ∃ cs, PortUse i cs s t

/-- The command leaves the port alone. -/
def KeepsPort (i : Instr) : Prop := ∀ s t, Answers i s t → port t = port s

theorem portUse_nil {i : Instr} {s t : State} (hrule : [] ∈ callsOf i) (h : port t = port s) : PortUse i [] s t :=
  ⟨makes_nil h, hrule, fun _ hmem => absurd hmem List.not_mem_nil⟩

theorem portUse_one {i : Instr} {c : Call} {s t : State} (h : Makes [c] s t) (hrule : [callOp c] ∈ callsOf i) (hc : c.Bounded) :
    PortUse i [c] s t :=
  ⟨h, hrule, fun _ hmem => List.mem_singleton.mp hmem ▸ hc⟩

theorem PortUse.before {i : Instr} {cs : List Call} {s u w : State} (h : PortUse i cs s u) (hw : port w = port u) : PortUse i cs s w :=
  ⟨h.makes.before hw, h.rule, h.bounded⟩

theorem PortUse.after {i : Instr} {cs : List Call} {s w u : State} (h : PortUse i cs w u) (hw : port w = port s) : PortUse i cs s u :=
  ⟨h.makes.after hw, h.rule, h.bounded⟩

theorem KeepsPort.callsByRule {i : Instr} (h : KeepsPort i) (hrule : [] ∈ callsOf i) : CallsByRule i := fun s t ht =>
  ⟨[], portUse_nil hrule (h s t ht)⟩

/-! The commands that make no call. -/

theorem keepsPort_of_post {i : Instr} {body : Body} (hi : ∀ s, exec i s = command body s)
    (h : ∀ s, Post (body s) fun p => port p.1 = port s) : KeepsPort i := fun s t ht => by
  rw [Answers, hi, command_next] at ht
  rcases ht with ⟨u, v, hu, rfl⟩ | ⟨e, -, rfl⟩
  · exact h s _ hu
  · exact takeError_port e s

theorem keepsPort_plain {i : Instr} {f : State → State} (hi : ∀ s, exec i s = command (plain f) s) (h : ∀ s, port (f s) = port s) :
    KeepsPort i := keepsPort_of_post hi fun s => post_ok (h s)

theorem keepsPort_toTi {i : Instr} {d : TiReg} {f : State → Result TimeInterval} (hi : ∀ s, exec i s = command (toTi d f) s) :
    KeepsPort i := keepsPort_of_post hi fun s => post_check fun x => post_pure (setTi_port d x s)

theorem fltStep_keepsPort (x : CtxId) (y : FltId) (a d : TiReg) : KeepsPort (.fltStep x y a d) := fun s t ht => by
  rcases fltStep_next x y a d s t ht with ⟨e, -, rfl⟩ | ⟨F, ⟨-, rfl⟩ | ⟨v, -, rfl⟩⟩ <;>
    simp only [takeError_port, complete_port, setTi_port, setFlt_port]

theorem svReset_keepsPort (c : CtxId) : KeepsPort (.svReset c) := by
  refine keepsPort_plain (fun _ => rfl) fun s => ?_
  dsimp only
  split <;> simp only [mirror_port, eventIf_port, disarm_port, resetFilters_port, setSt_port]

theorem svDelay_keepsPort (c : CtxId) (a b : TsReg) (k : TiReg) : KeepsPort (.svDelay c a b k) := fun s t ht => by
  rcases svDelay_next c a b k s t ht with ⟨e, rfl, -⟩ | ⟨-, rfl⟩ | ⟨F, ⟨-, -, rfl⟩ | ⟨y, -, -, rfl⟩⟩ <;>
    simp only [takeError_port, complete_port, setSt_port, setFlt_port]

theorem svSwitch_keepsPort : KeepsPort .svSwitch := by
  refine keepsPort_of_post (fun _ => rfl) fun s => post_check fun _ => ?_
  have hdisarmed : port (disarm (settleTimer s.svActive) (resetFilters (otherCtx s.svActive)
      (setSt (otherCtx s.svActive) (switchedState s.sv[s.svActive].st s.sv[otherCtx s.svActive].st) s))) = port s := by
    rw [disarm_port, resetFilters_port, setSt_port]
  refine post_ite (post_bind (Q := fun u => port u = port s) (fun _ hu => (arm_port hu).trans hdisarmed) fun u hu => ?_)
    (post_bind (Q := fun u => port u = port s) (post_ok hdisarmed) fun u hu => ?_) <;>
    exact post_pure ((eventIf_port _ _ _).trans hu)

theorem tmStart_keepsPort (k : TmrId) (a : TiReg) (rep : Bool) : KeepsPort (.tmStart k a rep) := by
  refine keepsPort_of_post (fun _ => rfl) fun s => ?_
  refine post_check fun _ => post_check fun _ => post_check fun _ => post_check fun _ => ?_
  exact post_bind (fun _ hu => arm_port hu) fun _ hu => post_pure hu

/-- A timer firing makes no call (R331). -/
theorem tmTick_keepsPort (a : TiReg) : KeepsPort (.tmTick a) := by
  refine keepsPort_of_post (fun _ => rfl) fun s => post_check fun _ => ?_
  exact post_bind (foldTicks_port _ allTimers _) fun p hp => post_pure hp

/-! The `CC.*` commands. -/

theorem magnitude_le {v : Int} (h : Fits v) : (magnitude v).toNat ≤ 9223372036854775808 := by
  unfold Fits at h
  rw [magnitude, BitVec.toNat_ofNat]
  omega

theorem PortUse.of_completes {i : Instr} {cs : List Call} {s u t : State} {v : Bool} (h : PortUse i cs s u) (hc : Completes i v s u)
    (ht : Answers i s t) : PortUse i cs s t := by
  rw [hc.eq ht]
  exact h.before (ended_port s u v)

theorem ccFreq_callsByRule (a : TiReg) (dom : Domain) : CallsByRule (.ccFreq a dom) := fun s _ ht =>
  ⟨_, (portUse_one (emit_makes (.setFrequencyRatio s.ti[a] dom) s) (.head _) trivial).of_completes (ccFreq_completes a dom) ht⟩

theorem ccSetTime_callsByRule (b : TsReg) (dom : Domain) : CallsByRule (.ccSetTime b dom) := fun s t ht => by
  by_cases h : WellFormed s.ts[b]
  · exact ⟨_, (portUse_one (emit_makes (.setTime s.ts[b] dom) s) (.tail _ (.head _)) h).of_completes (ccSetTime_completes b dom h) ht⟩
  · rw [(ccSetTime_raises b dom h).eq ht]
    exact ⟨[], portUse_nil (.head _) rfl⟩

theorem ccDelta_callsByRule (a : TiReg) (dom : Domain) : CallsByRule (.ccDelta a dom) := fun s _ ht =>
  ⟨_, (portUse_one (emit_makes (deltaCall s.ti[a] dom) s) (.head _) (magnitude_le (fits_toInt s.ti[a]))).of_completes
    (ccDelta_completes a dom) ht⟩

theorem ccPhase_callsByRule (a : TiReg) (dom : Domain) : CallsByRule (.ccPhase a dom) := fun s _ ht =>
  ⟨_, (portUse_one (emit_makes (.adjustPhase s.ti[a] dom) s) (.head _) trivial).of_completes (ccPhase_completes a dom) ht⟩

theorem ccGetTime_callsByRule (d : TsReg) (dom : Domain) : CallsByRule (.ccGetTime d dom) := fun s _ ht =>
  ⟨_, (portUse_one (takeAnswer_makes d dom s) (.head _) trivial).of_completes (ccGetTime_completes dom d) ht⟩

/-! The servo commands (R289). -/

section
variable {i : Instr} {c : CtxId} {s u : State}

/-- The step path sets a delta or a time of day (R276, R277). -/
theorem doStep_portUse {raw : Int} {t1 : Timestamp} {corr : Int} (hdelta : [3] ∈ callsOf i) (htime : [2] ∈ callsOf i)
    (h : doStep c raw t1 corr s = .ok u) : ∃ cs, PortUse i cs s u := by
  obtain ⟨call, hcall, hmakes⟩ := doStep_makes h
  rcases stepCall_ok _ _ _ _ _ hcall with ⟨hfits, rfl⟩ | ⟨-, t, ht, rfl⟩
  · exact ⟨_, portUse_one hmakes hdelta (magnitude_le ((fits_iff raw).mpr hfits))⟩
  · obtain ⟨-, -, hwf, -⟩ := tsChk_ok _ t ht
    exact ⟨_, portUse_one hmakes htime ((wellFormed_iff t).mpr hwf)⟩

/-- An evaluation sets the frequency, alone or with the phase (R284). -/
theorem servoEval_portUse {off : TimeInterval} {now : Timestamp} (hdirect : [1] ∈ callsOf i) (hphase : [1, 4] ∈ callsOf i)
    (h : servoEval c off now s = .ok u) : ∃ cs, PortUse i cs s u := by
  obtain ⟨ratio, hmakes⟩ := servoEval_makes h
  unfold outputCalls at hmakes
  split at hmakes
  · exact ⟨_, portUse_one hmakes hdirect trivial⟩
  · exact ⟨_, hmakes, hphase, List.forall_mem_cons.mpr ⟨trivial, List.forall_mem_singleton.mpr trivial⟩⟩

end

theorem svPid_callsByRule (c : CtxId) (o : TiReg) (n : TsReg) : CallsByRule (.svPid c o n) := fun s t ht => by
  have hrule : ∀ ops ∈ [[], [1], [1, 4]], ops ∈ callsOf (.svPid c o n) := fun _ h => h
  rcases svPid_next c o n s t ht with ⟨e, rfl, -⟩ | ⟨-, -, rfl⟩ | ⟨u, -, -, -, hu, rfl⟩
  · exact ⟨[], portUse_nil (.head _) (takeError_port e s)⟩
  · exact ⟨[], portUse_nil (.head _) (complete_port s false)⟩
  · obtain ⟨cs, huse⟩ := servoEval_portUse (hrule [1] (by decide)) (hrule [1, 4] (by decide)) hu
    exact ⟨cs, (huse.after (setSt_port c _ s)).before (complete_port u true)⟩

theorem svOffset_callsByRule (c : CtxId) (a b : TsReg) (k : TiReg) : CallsByRule (.svOffset c a b k) := fun s t ht => by
  have hrule : ∀ ops ∈ [[], [3], [2], [1], [1, 4]], ops ∈ callsOf (.svOffset c a b k) := fun _ h => h
  rcases svOffset_next c a b k s t ht with ⟨e, rfl, -⟩ | ⟨-, -, hends⟩
  · exact ⟨[], portUse_nil (.head _) (takeError_port e s)⟩
  · rcases hends with ⟨-, -, rfl⟩ | ⟨-, -, u, hu, rfl⟩ | ⟨-, -, F, ⟨-, rfl⟩ | ⟨y, u, -, hu, rfl⟩⟩
    · exact ⟨[], portUse_nil (.head _) (by rw [complete_port, setSt_port])⟩
    · obtain ⟨cs, huse⟩ := doStep_portUse (hrule [3] (by decide)) (hrule [2] (by decide)) hu
      exact ⟨cs, huse.before (complete_port u false)⟩
    · exact ⟨[], portUse_nil (.head _) (by rw [complete_port, setFlt_port, setSt_port])⟩
    · obtain ⟨cs, huse⟩ := servoEval_portUse (hrule [1] (by decide)) (hrule [1, 4] (by decide)) hu
      exact ⟨cs, (huse.after (by rw [setSt_port, setFlt_port, setSt_port])).before (complete_port u true)⟩

theorem svLost_callsByRule (c : CtxId) : CallsByRule (.svLost c) := fun s t ht => by
  rcases svLost_next c s t ht with ⟨e, rfl, -⟩ | ⟨-, -, u, hu, rfl⟩
  · exact ⟨[], portUse_nil (.head _) (takeError_port e s)⟩
  · have hcalls : ∃ cs, PortUse (.svLost c) cs s u := by
      rcases applyHoldover_makes hu with hsilent | ⟨r, hmakes⟩
      · exact ⟨[], hsilent, .head _, fun _ h => absurd h List.not_mem_nil⟩
      · exact ⟨_, portUse_one hmakes (.tail _ (.head _)) trivial⟩
    obtain ⟨cs, huse⟩ := hcalls
    refine ⟨cs, huse.before ?_⟩
    simp only [complete_port, mirror_port, eventIf_port, disarm_port, resetFilters_port, setSt_port]

/-! All commands but `SYS.RESET`, which zeroes the record. -/

theorem callsByRule {i : Instr} (hreset : i ≠ .sysReset) : CallsByRule i := by
  cases i with
  | sysReset => exact absurd rfl hreset
  | svOffset c a b k => exact svOffset_callsByRule c a b k
  | svPid c o n => exact svPid_callsByRule c o n
  | svLost c => exact svLost_callsByRule c
  | ccFreq a dom => exact ccFreq_callsByRule a dom
  | ccSetTime b dom => exact ccSetTime_callsByRule b dom
  | ccDelta a dom => exact ccDelta_callsByRule a dom
  | ccPhase a dom => exact ccPhase_callsByRule a dom
  | ccGetTime d dom => exact ccGetTime_callsByRule d dom
  | fltStep x y a d => exact (fltStep_keepsPort x y a d).callsByRule (.head _)
  | svReset c => exact (svReset_keepsPort c).callsByRule (.head _)
  | svDelay c a b k => exact (svDelay_keepsPort c a b k).callsByRule (.head _)
  | svSwitch => exact svSwitch_keepsPort.callsByRule (.head _)
  | tmStart k a rep => exact (tmStart_keepsPort k a rep).callsByRule (.head _)
  | tmTick a => exact (tmTick_keepsPort a).callsByRule (.head _)
  | nop | tiMov _ _ | tiHalf _ _ | tiToNs _ _ | tiCmp _ _ | tsMov _ _ | fltReset _ _ | svStat _ =>
    refine KeepsPort.callsByRule (keepsPort_plain (fun _ => rfl) fun _ => ?_) (.head _)
    exact port_eq rfl rfl
  | tiAdd _ _ _ | tiSub _ _ _ | tiNeg _ _ | tiAbs _ _ | tiFromNs _ _ | tiMulI _ _ _ | tiDivI _ _ _ | tsSub _ _ _ | tsDiffC _ _ _ _ =>
    exact (keepsPort_toTi fun _ => rfl).callsByRule (.head _)
  | pkHdr | upHdr | upTs _ | upPd _ _ | upAnn _ | upSig _ =>
    refine KeepsPort.callsByRule (keepsPort_of_post (fun _ => rfl) fun _ => ?_) (.head _)
    exact post_check fun _ => post_pure (port_eq rfl rfl)
  | tsAddI _ _ _ | pkSig _ | pkTlv | tmInit _ _ =>
    refine KeepsPort.callsByRule (keepsPort_of_post (fun _ => rfl) fun _ => ?_) (.head _)
    exact post_check fun _ => post_check fun _ => post_pure (port_eq rfl rfl)
  | pkTs _ | pkPd _ _ | upTlv =>
    refine KeepsPort.callsByRule (keepsPort_of_post (fun _ => rfl) fun _ => ?_) (.head _)
    exact post_check fun _ => post_check fun _ => post_check fun _ => post_pure (port_eq rfl rfl)
  | pkAnn _ =>
    refine KeepsPort.callsByRule (keepsPort_of_post (fun _ => rfl) fun _ => ?_) (.head _)
    exact post_check fun _ => post_check fun _ => post_ite (post_check fun _ => post_pure (port_eq rfl rfl)) (post_pure (port_eq rfl rfl))
  | tmStop _ =>
    refine KeepsPort.callsByRule (keepsPort_of_post (fun _ => rfl) fun _ => ?_) (.head _)
    exact post_check fun _ => post_ite (post_pure (port_eq rfl rfl)) (post_pure (port_eq rfl rfl))

/-- `SYS.RESET` keeps the trace (R341). -/
theorem sysReset_trace {s t : State} (ht : Answers .sysReset s t) : t.trace = s.trace := by
  have hexec : exec .sysReset s = .next (complete (resetCsrs s) false) := rfl
  rw [← Host.Outcome.next.inj (hexec.symm.trans ht)]
  rfl

/-- A command whose rules give it a call at all is one of the servo unit or of the port (R331). -/
theorem mayCall_of_mem_callsOf {i : Instr} {ops : List Nat} (h : ops ∈ callsOf i) (hne : ops ≠ []) :
    (∃ x a b c, i = .svOffset x a b c) ∨ (∃ x o n, i = .svPid x o n) ∨ (∃ x, i = .svLost x) ∨ (∃ a m, i = .ccFreq a m)
      ∨ (∃ a m, i = .ccSetTime a m) ∨ (∃ a m, i = .ccDelta a m) ∨ (∃ a m, i = .ccPhase a m) ∨ ∃ d m, i = .ccGetTime d m := by
  cases i with
  | svOffset _ _ _ _ | svPid _ _ _ | svLost _ | ccFreq _ _ | ccSetTime _ _ | ccDelta _ _ | ccPhase _ _ | ccGetTime _ _ => simp
  | _ => exact absurd (List.mem_singleton.mp h) hne

/-- Settles O19: `callsByRule`, and `SYS.RESET` makes no call. -/
theorem callsOfCommands : Obligations.CallsOfCommands := by
  unfold Obligations.CallsOfCommands
  intro i s t ht
  by_cases hreset : i = .sysReset
  · subst hreset
    exact ⟨[], (sysReset_trace ht).trans (List.append_nil _).symm, .head _, fun h => absurd rfl h⟩
  · obtain ⟨cs, huse⟩ := callsByRule hreset s t ht
    exact ⟨cs, huse.makes.trace, huse.rule, fun hne => mayCall_of_mem_callsOf huse.rule (mt List.map_eq_nil_iff.mp hne)⟩

/-- Settles O20: the fields of `Makes`, and the bounds of each call. -/
theorem callRecorded : Obligations.CallRecorded := by
  unfold Obligations.CallRecorded
  intro i s t hreset ht
  obtain ⟨cs, ⟨htrace, hcount, hsilent, hshown⟩, -, hbounded⟩ := callsByRule hreset s t ht
  exact ⟨cs, htrace, hcount, hsilent, hshown, fun _ _ hmem => hbounded _ hmem, fun _ _ _ hmem => hbounded _ hmem⟩

end Sys2Proof.Machine
end

section
/-! SUPPORT. A read of a CSR as the step answers it (R342), and the byte access through `BUF_DATA` (R34). -/

namespace Sys2Proof.Machine

theorem step_of_next_rd {s : State} {n : CsrNumber} {rest : List Txn} (h : Next s (.rd n) rest) :
    step s = .next { (csrRead n (popTxn rest s)).2 with result := some (csrRead n (popTxn rest s)).1 } := step_of_next h

/-- The transactions that wait are no part of what a CSR shows. -/
theorem csrValue_popTxn (n : CsrNumber) (r : List Txn) (s : State) : csrValue (popTxn r s) n = csrValue s n := csrValue_congr

theorem csrRead_bufData (s : State) : csrRead csrBufData s = (bufDataValue s, bumpAddr s) := rfl

theorem csrRead_of_ne {n : CsrNumber} (hn : n ≠ csrBufData) (s : State) : csrRead n s = (csrValue s n, s) := by
  rw [csrRead, if_neg hn]

/-- A read after a store of one byte at any offset: the byte is there if the offset lies in `BUF`, and every other byte is as before. -/
theorem readByte_writeByte_eq_ite (m : Memory) (a : Nat) (v : Byte) (x : Nat) :
    readByte (writeByte m a v) x = if x = a ∧ x < bufBytes then v else readByte m x := by
  by_cases hx : x = a
  · subst hx
    by_cases hin : x < bufBytes
    · rw [readByte_writeByte_same m x v hin, if_pos ⟨rfl, hin⟩]
    · rw [writeByte_outside m x v (Nat.not_lt.mp hin), if_neg fun h => hin h.2]
  · rw [readByte_writeByte_ne m a v x hx, if_neg fun h => hx h.1]

/-- Settles O7: only an access to `BUF_DATA` has a side effect, and its store is `writeByte` at `BUF_ADDR`. -/
theorem csrReadAndByteAccess : Obligations.CsrReadAndByteAccess := by
  unfold Obligations.CsrReadAndByteAccess
  intro s n v rest
  refine ⟨fun hnext hn => ?_, fun hnext => ?_, fun hnext => ?_⟩
  · rw [step_of_next_rd hnext, csrRead_of_ne hn, csrValue_popTxn]
    rfl
  · rw [step_of_next_rd hnext, csrRead_bufData]
    rfl
  · have hwrite := step_of_next_wr hnext (by decide)
    rw [csrWrite_bufData] at hwrite
    exact ⟨writeByte s.buf s.win.addr.toNat (slice v 0 8), hwrite, readByte_writeByte_eq_ite _ _ _⟩

end Sys2Proof.Machine
end

section
/-! SUPPORT. The commands that belong to no unit (R340, R341): `NOP` and `SYS.RESET`, and the words with their opcodes that are illegal. -/

namespace Sys2Proof

theorem fieldsOf_op_toNat (w : CommandWord) : (fieldsOf w).op.toNat = w.toNat / 16777216 := by
  have hw := w.isLt
  rw [fieldsOf, BitVec.extractLsb'_toNat, Nat.shiftRight_eq_div_pow]
  omega

/-- An opcode whose command has no operand decodes only in the word with zeros below it (R100, R103). -/
theorem decode_eq_none_of_fmtZ {w : CommandWord} {op : BitVec 8} {mk : Instr} (hop : (fieldsOf w).op = op)
    (hrow : decodeFields (fieldsOf w) = fmtZ mk (fieldsOf w)) (hw : w ≠ wordOf ⟨op, 0, 0, 0, 0⟩) : decode w = none := by
  refine Option.eq_none_iff_forall_ne_some.mpr fun i hi => hw ?_
  rw [decode, hrow, fmtZ_eq_some, hop] at hi
  obtain ⟨hfields, -⟩ := hi
  rw [← hfields, wordOf_fieldsOf]

theorem decodeFields_of_op_nop {f : Fields} (hop : f.op = 0x00) : decodeFields f = fmtZ .nop f := by
  simp only [decodeFields, hop]
  rfl

theorem decodeFields_of_op_sysReset {f : Fields} (hop : f.op = 0x7F) : decodeFields f = fmtZ .sysReset f := by
  simp only [decodeFields, hop]
  rfl

end Sys2Proof

namespace Sys2Proof.Machine

theorem nop_completes (s : State) : Completes .nop false s s := completes_plain (f := fun s => s) rfl rfl

theorem exec_sysReset (s : State) : exec .sysReset s = .next (complete (resetCsrs s) false) := command_plain _ s

theorem step_of_next_wr_cmd {s : State} {v : Reg} {rest : List Txn} {i : Instr} (h : Next s (.wr csrCmd v) rest)
    (hdec : decode (v.setWidth 32) = some i) : step s = mapNext (latchCmd (v.setWidth 32)) (exec i (popTxn rest s)) := by
  rw [step_of_next h, transact, if_pos rfl, runWord_of_decode hdec]

/-- Settles O12: the two commands are plain record updates, and each is the command of one word only. -/
theorem systemCommands : Obligations.SystemCommands := by
  unfold Obligations.SystemCommands
  have hreset : decode 0x7F000000 = some .sysReset := by decide
  refine ⟨fun s => ⟨by decide, nop_completes s⟩, fun s => ⟨hreset, exec_sysReset s⟩, fun s rest hnext => ?_, fun w hw hlow => ?_,
    fun w hw hhigh => ?_⟩
  · rw [step_of_next_wr_cmd hnext hreset, exec_sysReset]
    rfl
  · have hop : (fieldsOf w).op = 0x00 := BitVec.eq_of_toNat_eq ((fieldsOf_op_toNat w).trans (Nat.div_eq_of_lt hlow))
    exact decode_eq_none_of_fmtZ hop (decodeFields_of_op_nop hop) hw
  · have hop : (fieldsOf w).op = 0x7F := BitVec.eq_of_toNat_eq ((fieldsOf_op_toNat w).trans hhigh)
    exact decode_eq_none_of_fmtZ hop (decodeFields_of_op_sysReset hop) hw

end Sys2Proof.Machine
end

section
/-! SUPPORT. What the host sees of a command beside its registers: the event bits it may set (R361), and the transactions that wait. -/

namespace Sys2Proof.Machine

/-- Every bit of `a` is one of `b`. -/
theorem and_not_eq_zero_iff {a b : BitVec 12} : a &&& ~~~b = 0 ↔ ∀ k, a.getLsbD k = true → b.getLsbD k = true := by
  rw [BitVec.eq_of_getLsbD_eq_iff]
  simp only [BitVec.getLsbD_and, BitVec.getLsbD_not, BitVec.ofNat_eq_ofNat, BitVec.getLsbD_zero]
  constructor
  · intro h k ha
    have hk := BitVec.lt_of_getLsbD ha
    simpa [ha, hk] using h k hk
  · intro h k hk
    cases ha : a.getLsbD k with
    | false => rfl
    | true => simp [h k ha]

/-- From `s` to `u` event bits are only set, and none outside `m`; the transactions that wait are the same. -/
structure Signals (m : BitVec 12) (s u : State) : Prop where
  queue : u.inputs.pending = s.inputs.pending
  sticky : ∀ k, s.evt.getLsbD k = true → u.evt.getLsbD k = true
  named : ∀ k, u.evt.getLsbD k = true → s.evt.getLsbD k = true ∨ m.getLsbD k = true

section
variable {m n : BitVec 12} {s u w : State}

theorem signals_of_same (hqueue : u.inputs.pending = s.inputs.pending) (hevt : u.evt = s.evt) : Signals m s u :=
  ⟨hqueue, fun _ h => hevt ▸ h, fun _ h => .inl (hevt ▸ h)⟩

theorem Signals.trans (h : Signals m s u) (k : Signals m u w) : Signals m s w where
  queue := k.queue.trans h.queue
  sticky := fun b hb => k.sticky b (h.sticky b hb)
  named := fun b hb => (k.named b hb).elim (h.named b) .inr

theorem Signals.mono (h : Signals m s u) (hmn : m &&& ~~~n = 0) : Signals n s u :=
  ⟨h.queue, h.sticky, fun b hb => (h.named b hb).imp_right (and_not_eq_zero_iff.mp hmn b)⟩

/-- A part that leaves the queue and the events alone may follow. -/
theorem Signals.before (h : Signals m s u) (hqueue : w.inputs.pending = u.inputs.pending) (hevt : w.evt = u.evt) : Signals m s w :=
  h.trans (signals_of_same hqueue hevt)

/-- A part that leaves the queue and the events alone may precede. -/
theorem Signals.after (h : Signals m w u) (hqueue : w.inputs.pending = s.inputs.pending) (hevt : w.evt = s.evt) : Signals m s u :=
  (signals_of_same hqueue hevt).trans h

theorem event_signals {b : BitVec 12} (s : State) (hb : b &&& ~~~m = 0) : Signals m s (event b s) where
  queue := rfl
  sticky := fun k hk => by rw [getLsbD_event, hk, Bool.true_or]
  named := fun k hk => by
    rw [getLsbD_event, Bool.or_eq_true] at hk
    exact hk.imp_right (and_not_eq_zero_iff.mp hb k)

theorem eventIf_signals (c : Bool) {b : BitVec 12} (s : State) (hb : b &&& ~~~m = 0) : Signals m s (eventIf c b s) := by
  cases c with
  | false => exact signals_of_same rfl rfl
  | true => exact event_signals s hb

/-! The shared operations. -/

theorem emitAll_signals (cs : List Call) (s : State) : Signals m s (emitAll cs s) := by
  induction cs generalizing s with
  | nil => exact signals_of_same rfl rfl
  | cons c cs ih => exact (ih (emit c s)).after rfl rfl

theorem arm_signals {i : TmrId} {ticks : Nat} {rep : Bool} (h : arm i ticks rep s = .ok u) : Signals m s u := by
  obtain ⟨-, rfl⟩ := (arm_ok i ticks rep s u).mp h
  exact signals_of_same rfl rfl

/-- Back in `FREERUN`, at most `STATE_CHG`. -/
theorem freeRun_signals (c : CtxId) (st : ServoState) (s : State) : Signals 0x100 s (freeRun c st s) := by
  refine (event_signals (disarm (settleTimer c) (restart c st s)) ?_).after rfl rfl
  split <;> decide

/-- The step path sets `STEPPED` and `STATE_CHG` (R276). -/
theorem doStep_signals {c : CtxId} {raw : Int} {t1 : Timestamp} {corr : Int} (h : doStep c raw t1 corr s = .ok u) :
    Signals 0x300 s u := by
  obtain ⟨call, armed, -, harm, rfl⟩ := doStep_ok c raw t1 corr s u h
  have harmed : Signals 0x300 s armed := (arm_signals harm).after rfl rfl
  exact (harmed.trans (event_signals armed (by decide))).before rfl rfl

/-- An evaluation sets at most `HOLDOVER_RDY` and `STATE_CHG` (R285, R288). -/
theorem servoEval_signals {c : CtxId} {off : TimeInterval} {now : Timestamp} (h : servoEval c off now s = .ok u) :
    Signals 0x500 s u := by
  obtain ⟨dt, p, ratio, -, -, -, st, -, rfl⟩ := servoEval_ok c off now s u h
  have hstored : Signals 0x500 s (setSt c st (emitAll (outputCalls s.sv[c].cfg off.toInt ratio).1 s)) :=
    (emitAll_signals _ s).before rfl rfl
  exact ((hstored.trans (eventIf_signals _ _ (by decide))).trans (eventIf_signals _ _ (by decide))).before rfl rfl

/-- The holdover sets `HOLDOVER_USED`, if it is applied (R292). -/
theorem applyHoldover_signals {c : CtxId} (h : applyHoldover c s = .ok u) : Signals 0x800 s u := by
  rcases applyHoldover_ok c s u h with ⟨-, rfl⟩ | ⟨-, r, -, rfl⟩
  · exact signals_of_same rfl rfl
  · exact (event_signals (setSt c { s.sv[c].st with ratio := r } (emit (.setFrequencyRatio r s.sv[c].cfg.domain) s))
      (by decide)).after rfl rfl

/-- A firing sets the timer's bit, and `STATE_CHG` if it ends a settling (R181, R278). -/
theorem fire_signals (i : TmrId) (s : State) : Signals 0x1FF s (fire i s) := by
  have hbit : ∀ j : TmrId, evTimer j &&& ~~~0x1FF#12 = 0 := by decide
  rcases settle_or_general i with ⟨c, rfl⟩ | hgen
  · rw [fire_settle, settleExpire_eq]
    refine Signals.trans ((event_signals (setSt c _ s) ?_).after rfl rfl) (event_signals _ (hbit (settleTimer c)))
    split <;> decide
  · rw [fire_general hgen]
    exact event_signals s (hbit i)

theorem tickOne_signals (now : Nat) (acc : State × Bool) (i : TmrId) :
    Post (tickOne now acc i) fun p => Signals 0x1FF acc.1 p.1 := by
  obtain ⟨s, fired⟩ := acc
  rintro ⟨u, g⟩ hu
  rcases tickOne_ok now s u fired g i hu with ⟨-, -, rfl, -⟩ | ⟨-, -, -, -, t, -, rfl⟩ | ⟨-, rfl, -⟩
  · exact signals_of_same rfl rfl
  · exact (fire_signals i (setTimer i t s)).after rfl rfl
  · exact signals_of_same rfl rfl

theorem foldTicks_signals (now : Nat) (is : List TmrId) (acc : State × Bool) :
    Post (is.foldlM (tickOne now) acc) fun p => Signals 0x1FF acc.1 p.1 := by
  induction is generalizing acc with
  | nil => exact post_pure (signals_of_same rfl rfl)
  | cons i is ih =>
    rw [List.foldlM_cons]
    exact post_bind (tickOne_signals now acc i) fun a ha => post_mono (ih a) fun _ hp => ha.trans hp

/-- Taking the port's answer uses up no transaction. -/
theorem afterAnswer_pending (i : Inputs) : (afterAnswer i).pending = i.pending := by
  unfold afterAnswer
  split <;> rfl

end

/-! The commands. -/

/-- Whatever the command answers, it has set only events of its own. -/
def SignalsByRule (i : Instr) : Prop := ∀ s t, Answers i s t → Signals (eventsOf i) s t

theorem signalsByRule_of_post {i : Instr} {body : Body} (hi : ∀ s, exec i s = command body s)
    (h : ∀ s, Post (body s) fun p => Signals (eventsOf i) s p.1) : SignalsByRule i := fun s t ht => by
  rw [Answers, hi, command_next] at ht
  rcases ht with ⟨u, v, hu, rfl⟩ | ⟨e, -, rfl⟩
  · exact (h s _ hu).before rfl rfl
  · exact signals_of_same rfl rfl

theorem signalsByRule_plain {i : Instr} {f : State → State} (hi : ∀ s, exec i s = command (plain f) s)
    (h : ∀ s, Signals (eventsOf i) s (f s)) : SignalsByRule i := signalsByRule_of_post hi fun s => post_ok (h s)

theorem signalsByRule_toTi {i : Instr} {d : TiReg} {f : State → Result TimeInterval} (hi : ∀ s, exec i s = command (toTi d f) s) :
    SignalsByRule i := signalsByRule_of_post hi fun _ => post_check fun _ => post_pure (signals_of_same rfl rfl)

theorem fltStep_signalsByRule (x : CtxId) (y : FltId) (a d : TiReg) : SignalsByRule (.fltStep x y a d) := fun s t ht => by
  rcases fltStep_next x y a d s t ht with ⟨e, -, rfl⟩ | ⟨F, ⟨-, rfl⟩ | ⟨v, -, rfl⟩⟩ <;> exact signals_of_same rfl rfl

theorem svReset_signalsByRule (c : CtxId) : SignalsByRule (.svReset c) := by
  refine signalsByRule_plain (exec_svReset c) fun s => ?_
  have hfree := freeRun_signals c ServoState.zero s
  exact iteInduction (motive := Signals 0x100 s) (fun _ => hfree.before rfl rfl) (fun _ => hfree)

theorem svDelay_signalsByRule (c : CtxId) (a b : TsReg) (k : TiReg) : SignalsByRule (.svDelay c a b k) := fun s t ht => by
  rcases svDelay_next c a b k s t ht with ⟨e, rfl, -⟩ | ⟨-, rfl⟩ | ⟨F, ⟨-, -, rfl⟩ | ⟨y, -, -, rfl⟩⟩ <;> exact signals_of_same rfl rfl

theorem svOffset_signalsByRule (c : CtxId) (a b : TsReg) (k : TiReg) : SignalsByRule (.svOffset c a b k) := fun s t ht => by
  change Signals 0x700 s t
  rcases svOffset_next c a b k s t ht with ⟨e, rfl, -⟩ | ⟨-, -, hends⟩
  · exact signals_of_same rfl rfl
  · rcases hends with ⟨-, -, rfl⟩ | ⟨-, -, u, hu, rfl⟩ | ⟨-, -, F, ⟨-, rfl⟩ | ⟨y, u, -, hu, rfl⟩⟩
    · exact signals_of_same rfl rfl
    · exact ((doStep_signals hu).mono (by decide)).before rfl rfl
    · exact signals_of_same rfl rfl
    · exact Signals.before (.after ((servoEval_signals hu).mono (by decide)) rfl rfl) rfl rfl

theorem svPid_signalsByRule (c : CtxId) (o : TiReg) (n : TsReg) : SignalsByRule (.svPid c o n) := fun s t ht => by
  rcases svPid_next c o n s t ht with ⟨e, rfl, -⟩ | ⟨-, -, rfl⟩ | ⟨u, -, -, -, hu, rfl⟩
  · exact signals_of_same rfl rfl
  · exact signals_of_same rfl rfl
  · exact Signals.before (.after (servoEval_signals hu) rfl rfl) rfl rfl

theorem svSwitch_signalsByRule : SignalsByRule .svSwitch := by
  refine signalsByRule_of_post exec_svSwitch fun s => post_check fun _ => ?_
  refine post_ite (post_bind (Q := Signals 0x100 s) (fun _ hu => (arm_signals hu).after rfl rfl) fun u hu => ?_)
    (post_bind (Q := Signals 0x100 s) (post_ok (signals_of_same rfl rfl)) fun u hu => ?_) <;>
    refine post_pure (Signals.trans (m := 0x100) (hu.before ?_ ?_) (eventIf_signals _ _ ?_)) <;> rfl

theorem svLost_signalsByRule (c : CtxId) : SignalsByRule (.svLost c) := fun s t ht => by
  rcases svLost_next c s t ht with ⟨e, rfl, -⟩ | ⟨-, -, u, hu, rfl⟩
  · exact signals_of_same rfl rfl
  · rw [freeRun_eq]
    have hheld : Signals 0x900 s u := (applyHoldover_signals hu).mono (by decide)
    exact (hheld.trans ((freeRun_signals c _ u).mono (by decide))).before rfl rfl

theorem tmTick_signalsByRule (a : TiReg) : SignalsByRule (.tmTick a) := by
  refine signalsByRule_of_post (exec_tmTick a) fun s => post_check fun _ => ?_
  exact post_bind (foldTicks_signals _ allTimers _) fun p hp => post_pure (Signals.before (.after hp rfl rfl) rfl rfl)

/-- All commands but `SYS.RESET`, which clears the events. -/
theorem signalsByRule {i : Instr} (hreset : i ≠ .sysReset) : SignalsByRule i := by
  cases i with
  | sysReset => exact absurd rfl hreset
  | svReset c => exact svReset_signalsByRule c
  | svDelay c a b k => exact svDelay_signalsByRule c a b k
  | svOffset c a b k => exact svOffset_signalsByRule c a b k
  | svPid c o n => exact svPid_signalsByRule c o n
  | svSwitch => exact svSwitch_signalsByRule
  | svLost c => exact svLost_signalsByRule c
  | tmTick a => exact tmTick_signalsByRule a
  | fltStep x y a d => exact fltStep_signalsByRule x y a d
  | ccGetTime d dom => exact signalsByRule_plain (fun _ => rfl) fun s => signals_of_same (afterAnswer_pending s.inputs) rfl
  | nop | tiMov _ _ | tiHalf _ _ | tiToNs _ _ | tiCmp _ _ | tsMov _ _ | fltReset _ _ | svStat _ | ccFreq _ _ | ccDelta _ _
  | ccPhase _ _ => exact signalsByRule_plain (fun _ => rfl) fun _ => signals_of_same rfl rfl
  | tiAdd _ _ _ | tiSub _ _ _ | tiNeg _ _ | tiAbs _ _ | tiFromNs _ _ | tiMulI _ _ _ | tiDivI _ _ _ | tsSub _ _ _ | tsDiffC _ _ _ _ =>
    exact signalsByRule_toTi fun _ => rfl
  | pkHdr | upHdr | upTs _ | upPd _ _ | upAnn _ | upSig _ | ccSetTime _ _ =>
    refine signalsByRule_of_post (fun _ => rfl) fun s => ?_
    exact post_check fun _ => post_pure (signals_of_same rfl rfl)
  | tsAddI _ _ _ | pkSig _ | pkTlv | tmInit _ _ =>
    refine signalsByRule_of_post (fun _ => rfl) fun s => ?_
    exact post_check fun _ => post_check fun _ => post_pure (signals_of_same rfl rfl)
  | pkTs _ | pkPd _ _ | upTlv =>
    refine signalsByRule_of_post (fun _ => rfl) fun s => ?_
    exact post_check fun _ => post_check fun _ => post_check fun _ => post_pure (signals_of_same rfl rfl)
  | pkAnn _ =>
    refine signalsByRule_of_post (fun _ => rfl) fun s => ?_
    refine post_check fun _ => post_check fun _ => post_ite (post_check fun _ => ?_) ?_ <;>
      exact post_pure (signals_of_same rfl rfl)
  | tmStart _ _ _ =>
    refine signalsByRule_of_post (fun _ => rfl) fun s => ?_
    refine post_check fun _ => post_check fun _ => post_check fun _ => post_check fun _ => ?_
    exact post_bind (fun _ hu => arm_signals hu) fun _ hu => post_pure hu
  | tmStop _ =>
    refine signalsByRule_of_post (fun _ => rfl) fun s => ?_
    exact post_check fun _ => post_ite (post_pure (signals_of_same rfl rfl)) (post_pure (signals_of_same rfl rfl))

/-- What `SYS.RESET` answers is `resetCsrs` (R341). -/
theorem sysReset_eq {s t : State} (ht : Answers .sysReset s t) : t = complete (resetCsrs s) false :=
  (Host.Outcome.next.inj ((exec_sysReset s).symm.trans ht)).symm

/-- Settles O17: `signalsByRule`, and `SYS.RESET` leaves no event. -/
theorem eventsStickyAndNamed : Obligations.EventsStickyAndNamed := by
  unfold Obligations.EventsStickyAndNamed
  intro i s t ht
  by_cases hreset : i = .sysReset
  · subst hreset
    obtain rfl := sysReset_eq ht
    have hnone : (complete (resetCsrs s) false).evt = 0 := rfl
    exact ⟨fun h => absurd rfl h, by rw [hnone]; simp⟩
  · obtain ⟨-, hsticky, hnamed⟩ := signalsByRule hreset s t ht
    refine ⟨fun _ => and_not_eq_zero_iff.mpr hsticky, and_not_eq_zero_iff.mpr fun k hk => ?_⟩
    rw [BitVec.getLsbD_and, BitVec.getLsbD_not] at hk
    simp only [Bool.and_eq_true, Bool.not_eq_true', decide_eq_true_eq] at hk
    obtain ⟨hset, -, hclear⟩ := hk
    exact (hnamed k hset).resolve_left (Bool.eq_false_iff.mp hclear)

end Sys2Proof.Machine
end

section
/-! SUPPORT. Any number of transactions, one after the other (R354). -/

namespace Sys2Proof.Machine

/-- No command takes a transaction from the queue. -/
theorem exec_pending {i : Instr} {s t : State} (ht : Answers i s t) : t.inputs.pending = s.inputs.pending := by
  by_cases hreset : i = .sysReset
  · subst hreset
    rw [sysReset_eq ht]
    rfl
  · exact (signalsByRule hreset s t ht).queue

theorem csrRead_inputs (n : CsrNumber) (s : State) : (csrRead n s).2.inputs = s.inputs :=
  iteInduction (motive := fun u : State => u.inputs = s.inputs) (fun _ => rfl) (fun _ => rfl)

theorem runWord_accepts (w : CommandWord) (s : State) : ∃ t, runWord w s = .next t ∧ t.inputs.pending = s.inputs.pending := by
  cases hdec : decode w with
  | none => exact ⟨latchCmd w (takeError .illegal s), by rw [runWord, hdec], rfl⟩
  | some i =>
    obtain ⟨u, hu⟩ := exec_next i s
    have hqueue : u.inputs.pending = s.inputs.pending := exec_pending hu
    exact ⟨latchCmd w u, by rw [runWord_of_decode hdec, hu]; rfl, hqueue⟩

/-- Every transaction ends with a next state and leaves the ones behind it waiting. -/
theorem transact_accepts (x : Txn) (s : State) : ∃ t, transact x s = .next t ∧ t.inputs.pending = s.inputs.pending := by
  cases x with
  | rd n => exact ⟨_, rfl, congrArg Inputs.pending (csrRead_inputs n s)⟩
  | wr n v =>
    by_cases hn : n = csrCmd
    · rw [transact, if_pos hn]
      exact runWord_accepts _ s
    · rw [transact, if_neg hn]
      exact ⟨_, rfl, congrArg Inputs.pending (csrWrite_keeps n v s).inputs⟩
  | reset => exact ⟨_, rfl, rfl⟩

theorem step_accepts (s : State) : ∃ t, step s = .next t ∧ t.inputs.pending = s.inputs.pending.tail := by
  cases hpending : s.inputs.pending with
  | nil => exact ⟨s, by rw [step, stepMachine, hpending], hpending⟩
  | cons x rest =>
    rw [step_of_next hpending]
    exact transact_accepts x (popTxn rest s)

/-- A machine whose every step answers a next state runs for any number of steps. -/
theorem run_next_of_step {M : Host.Core} (h : ∀ s, ∃ t, M.step s = .next t) (k : Nat) (s : M.State) : ∃ t, M.run k s = .next t := by
  induction k generalizing s with
  | zero => exact ⟨s, rfl⟩
  | succ k ih =>
    obtain ⟨u, hu⟩ := h s
    rw [Host.Core.run, hu]
    exact ih u

/-- Settles O13: each kind of transaction answers a next state (`transact_accepts`), and so does a run of them. -/
theorem neverFatal : Obligations.NeverFatal := by
  unfold Obligations.NeverFatal
  exact ⟨step_accepts, run_next_of_step (M := core) fun s => (step_accepts s).imp fun _ ⟨hstep, _⟩ => hstep⟩

/-! A write of `CMD` that raises (R352). -/

theorem errCode_toNat_bounds (e : Err) : 1 ≤ (errCode e).toNat ∧ (errCode e).toNat ≤ 10 := by
  cases e <;> decide

/-- A write of `CMD` whose command does not complete has taken an error, that of its command or `E_ILLEGAL`. -/
theorem runWord_failed {w : CommandWord} {s t : State} (h : runWord w s = .next t) (hfail : t.status.ok = false) :
    ∃ e, t = latchCmd w (takeError e s) := by
  rcases runWord_next h with ⟨-, rfl⟩ | ⟨i, u, -, hu, rfl⟩
  · exact ⟨.illegal, rfl⟩
  · rcases exec_ends i s u hu with ⟨hok, -⟩ | ⟨-, e, rfl⟩
    · exact absurd hok (Bool.eq_false_iff.mp hfail)
    · exact ⟨e, rfl⟩

/-- Settles O14: `takeError` is the record update of R352. -/
theorem failureChangesNothing : Obligations.FailureChangesNothing := by
  unfold Obligations.FailureChangesNothing
  intro s v rest t hnext hstep hfail
  rw [step_of_next hnext, transact, if_pos rfl] at hstep
  obtain ⟨e, rfl⟩ := runWord_failed hstep hfail
  obtain ⟨hlo, hhi⟩ := errCode_toNat_bounds e
  exact ⟨hlo, hhi, rfl⟩

end Sys2Proof.Machine
end

section
/-! SUPPORT. `STATE_CHG` and the clock states (R28, R361): a command that changes no clock state does not set the bit. -/

namespace Sys2Proof.Machine

/-- From `s` to `u` `STATE_CHG` stays as it was, unless a clock state changes. -/
def ChangeOnly (s u : State) : Prop := SameClocks s u → u.evt.getLsbD 8 = s.evt.getLsbD 8

section
variable {c : CtxId} {s u w : State}

theorem changeOnly_of_same (h : u.evt = s.evt) : ChangeOnly s u := fun _ => congrArg (·.getLsbD 8) h

/-- A changed clock state leaves nothing to show. -/
theorem changeOnly_of_changed (h : u.sv[c].st.clockState ≠ s.sv[c].st.clockState) : ChangeOnly s u := fun hsame => absurd (hsame c) h

/-- A part that neither touches the clock states nor `STATE_CHG` may precede. -/
theorem ChangeOnly.after (h : ChangeOnly w u) (hclocks : SameClocks s w) (hbit : w.evt.getLsbD 8 = s.evt.getLsbD 8) : ChangeOnly s u :=
  fun hsame => (h fun d => (hsame d).trans (hclocks d).symm).trans hbit

/-- A part that leaves the clock states and the events alone may follow. -/
theorem ChangeOnly.before (h : ChangeOnly s u) (hclocks : SameClocks u w) (hevt : w.evt = u.evt) : ChangeOnly s w :=
  fun hsame => (congrArg (·.getLsbD 8) hevt).trans (h fun d => (hclocks d).symm.trans (hsame d))

theorem ChangeOnly.mirror (h : ChangeOnly s u) (d : CtxId) : ChangeOnly s (mirror d u) :=
  h.before (fun e => mirror_clockState d e u) rfl

theorem ChangeOnly.complete (h : ChangeOnly s u) (v : Bool) : ChangeOnly s (complete u v) := h.before (fun _ => rfl) rfl

/-- An event without `STATE_CHG`. -/
theorem getLsbD_event_of_clear {b : BitVec 12} {n : Nat} (h : b.getLsbD n = false) (s : State) :
    (event b s).evt.getLsbD n = s.evt.getLsbD n := by
  rw [getLsbD_event, h, Bool.or_false]

/-! The shared operations of the servo. -/

/-- A call is no event. -/
theorem emitAll_evt (cs : List Call) (s : State) : (emitAll cs s).evt = s.evt := by
  induction cs generalizing s with
  | nil => rfl
  | cons c cs ih => exact ih (emit c s)

theorem freeRun_changeOnly (c : CtxId) {st : ServoState} (s : State) (h : st.clockState = 0) : ChangeOnly s (freeRun c st s) := by
  intro hsame
  have hfree : s.sv[c].st.clockState = 0 := (hsame c).symm.trans (freeRun_moves c st s h).moved
  rw [freeRun, if_pos hfree]
  exact getLsbD_event_of_clear rfl _

/-- A step always changes the clock state: it leads into a settling from a state that is none (R276). -/
theorem doStep_changeOnly {raw : Int} {t1 : Timestamp} {corr : Int} (hs : settling s.sv[c].st.clockState = false)
    (h : doStep c raw t1 corr s = .ok u) : ChangeOnly s u := by
  have hcolumn : ∀ b : BitVec 4, settling b = false → BitVec.ofNat 4 (stepColumn b.toNat) ≠ b := by decide
  refine changeOnly_of_changed (c := c) ?_
  rw [(doStep_moves h).1.moved]
  exact hcolumn _ hs

theorem servoEval_changeOnly {off : TimeInterval} {now : Timestamp} (h : servoEval c off now s = .ok u) : ChangeOnly s u := by
  obtain ⟨dt, p, ratio, -, -, -, st, -, rfl⟩ := servoEval_ok c off now s u h
  refine ChangeOnly.mirror (fun hsame => ?_) c
  have hclock : st.clockState = s.sv[c].st.clockState := by
    rw [← hsame c, eventIf_sv, eventIf_sv, setSt_st_same]
  rw [eventIf_changed, if_pos hclock, eventIf_holdover, getLsbD_event_of_clear rfl]
  have hcalls : (setSt c st (emitAll (outputCalls s.sv[c].cfg off.toInt ratio).1 s)).evt = s.evt := emitAll_evt _ s
  rw [← hcalls]
  exact getLsbD_event_of_clear (by split <;> rfl) _

theorem applyHoldover_stateChg (h : applyHoldover c s = .ok u) : u.evt.getLsbD 8 = s.evt.getLsbD 8 := by
  rcases applyHoldover_ok c s u h with ⟨-, rfl⟩ | ⟨-, r, -, rfl⟩
  · rfl
  · exact getLsbD_event_of_clear rfl _

/-- The bits of the timers are below `STATE_CHG`. -/
theorem tickEvents_stateChg {now : Nat} (h : ∀ c : CtxId, tickedClock s now c = s.sv[c].st.clockState) :
    (tickEvents s now).getLsbD 8 = false := by
  have htimers : (BitVec.ofNat 12 (dueSum s now 8)).getLsbD 8 = false := by
    rw [BitVec.getLsbD_ofNat, Nat.testBit_lt_two_pow (dueSum_lt 8 le_rfl), Bool.and_false]
  rw [← eventsBelow_all, eventsBelow, clockEvents, if_pos fun c _ => h c, BitVec.getLsbD_or, htimers]
  rfl

end

/-! The commands that may set `STATE_CHG`. -/

section
variable {s t : State}

theorem svReset_changeOnly {c : CtxId} (ht : Answers (.svReset c) s t) : ChangeOnly s t := by
  have hfree := freeRun_changeOnly c s (st := ServoState.zero) rfl
  by_cases hactive : c = s.svActive
  · rw [(svReset_completes_active hactive).eq ht]
    exact (hfree.mirror c).complete false
  · rw [(svReset_completes_inactive hactive).eq ht]
    exact hfree.complete false

theorem svOffset_changeOnly {c : CtxId} {a b : TsReg} {k : TiReg} (ht : Answers (.svOffset c a b k) s t) : ChangeOnly s t := by
  have hclock := withSample_clockState s.sv[c].st (oneWay s.ts[a] s.ts[b] (tiInt s k)) s.ts[a] s.ts[b]
  rcases svOffset_next c a b k s t ht with ⟨e, rfl, -⟩ | ⟨-, -, hends⟩
  · exact changeOnly_of_same rfl
  · rcases hends with ⟨-, -, rfl⟩ | ⟨hs, -, u, hu, rfl⟩ | ⟨-, -, F, ⟨-, rfl⟩ | ⟨y, u, -, hu, rfl⟩⟩
    · exact changeOnly_of_same rfl
    · exact (doStep_changeOnly hs hu).complete false
    · exact changeOnly_of_same rfl
    · have hfiltered := (sameClocks_setSt hclock).trans (sameClocks_setFlt c 1 F _)
      have hstored := hfiltered.trans (sameClocks_setOffset (hclock.trans (hfiltered c).symm) y)
      exact ((servoEval_changeOnly hu).after hstored rfl).complete true

theorem svPid_changeOnly {c : CtxId} {o : TiReg} {n : TsReg} (ht : Answers (.svPid c o n) s t) : ChangeOnly s t := by
  rcases svPid_next c o n s t ht with ⟨e, rfl, -⟩ | ⟨-, -, rfl⟩ | ⟨u, -, -, -, hu, rfl⟩
  · exact changeOnly_of_same rfl
  · exact changeOnly_of_same rfl
  · exact ((servoEval_changeOnly hu).after (sameClocks_setOffset rfl s.ti[o]) rfl).complete true

theorem svSwitch_changeOnly (ht : Answers .svSwitch s t) : ChangeOnly s t := by
  rcases failed_or_ok ht with ⟨e, rfl⟩ | hok
  · exact changeOnly_of_same rfl
  · obtain ⟨hsv, hevt⟩ := svSwitch_ok ht hok
    intro hsame
    have hclock : s.sv[s.svActive].st.clockState = s.sv[otherCtx s.svActive].st.clockState := by
      rw [← hsame (otherCtx s.svActive), hsv, handedOver_new]
      rfl
    rw [hevt, handedOver, if_pos hclock]
    exact getLsbD_event_of_clear (b := 0) rfl s

theorem svLost_changeOnly {c : CtxId} (ht : Answers (.svLost c) s t) : ChangeOnly s t := by
  rcases svLost_next c s t ht with ⟨e, rfl, -⟩ | ⟨-, -, u, hu, rfl⟩
  · exact changeOnly_of_same rfl
  · rw [freeRun_eq]
    have hfree := freeRun_changeOnly c (st := lostState u.sv[c].st) u rfl
    exact ((hfree.after (applyHoldover_clocks hu) (applyHoldover_stateChg hu)).mirror c).complete false

theorem tmTick_changeOnly {a : TiReg} (ht : Answers (.tmTick a) s t) : ChangeOnly s t := by
  rcases failed_or_ok ht with ⟨e, rfl⟩ | hok
  · exact changeOnly_of_same rfl
  · obtain ⟨hsv, hevt⟩ := tmTick_ok ht hok
    intro hsame
    have hclocks : ∀ c : CtxId, tickedClock s s.ti[a].toNat c = s.sv[c].st.clockState := fun c => by
      rw [← hsame c, hsv]
      rfl
    rw [hevt]
    exact getLsbD_event_of_clear (tickEvents_stateChg hclocks) s

end

/-- The other commands have no part in `STATE_CHG` at all. -/
theorem changeOnly_of_eventsOf {i : Instr} {s t : State} (hreset : i ≠ .sysReset) (hnone : eventsOf i = 0) (ht : Answers i s t) :
    ChangeOnly s t := fun _ => by
  obtain ⟨-, hsticky, hnamed⟩ := signalsByRule hreset s t ht
  rw [hnone] at hnamed
  exact Bool.eq_iff_iff.mpr ⟨fun hset => (hnamed 8 hset).resolve_right Bool.false_ne_true, hsticky 8⟩

theorem changeOnly {i : Instr} {s t : State} (hreset : i ≠ .sysReset) (ht : Answers i s t) : ChangeOnly s t := by
  cases i with
  | svReset c => exact svReset_changeOnly ht
  | svOffset c a b k => exact svOffset_changeOnly ht
  | svPid c o n => exact svPid_changeOnly ht
  | svSwitch => exact svSwitch_changeOnly ht
  | svLost c => exact svLost_changeOnly ht
  | tmTick a => exact tmTick_changeOnly ht
  | _ => exact changeOnly_of_eventsOf hreset rfl ht

/-- Settles O18: a command that sets the bit has changed a clock state (`changeOnly`), and one that changes a clock state names the
change (`explained`). -/
theorem stateChangeEvent : Obligations.StateChangeEvent := by
  unfold Obligations.StateChangeEvent
  intro i s t hreset ht hclear
  constructor
  · intro hset
    by_contra hnone
    have hsame : SameClocks s t := fun c => by_contra fun h => hnone ⟨c, h⟩
    rw [changeOnly hreset ht hsame, hclear] at hset
    exact Bool.false_ne_true hset
  · rintro ⟨c, hchanged⟩
    obtain ⟨-, hnamed⟩ := explained i c s t ht hchanged
    exact hnamed hreset

end Sys2Proof.Machine
end

section
/-! SUPPORT. The codes a command can end with (R350): a small logic for the errors a result may raise, the counterpart of `Post`. -/

namespace Sys2Proof.Machine

/-- If the result raises, its error has one of these codes. -/
def RaisesIn {α : Type} (x : Result α) (cs : List Nat) : Prop := ∀ e, x = .error e → (errCode e).toNat ∈ cs

section
variable {α β : Type} {cs : List Nat}

theorem raisesIn_pure (a : α) : RaisesIn (pure a : Result α) cs := fun e h => ((pure_ne_error a e).mp h).elim

theorem raisesIn_bind {x : Result α} {f : α → Result β} (hx : RaisesIn x cs) (hf : ∀ a, RaisesIn (f a) cs) : RaisesIn (x >>= f) cs :=
  fun e h => ((bind_error x f e).mp h).elim (hx e) fun ⟨a, _, ha⟩ => hf a e ha

theorem raisesIn_ite {c : Prop} [Decidable c] {x y : Result α} (hx : RaisesIn x cs) (hy : RaisesIn y cs) :
    RaisesIn (if c then x else y) cs := by split <;> assumption

/-- An operation with one error only. -/
theorem raisesIn_of_one {x : Result α} {e : Err} (h : ∀ e', x = .error e' → e' = e) (he : (errCode e).toNat ∈ cs) : RaisesIn x cs :=
  fun e' hx => h e' hx ▸ he

theorem ensure_raisesIn (c : Bool) {e : Err} (he : (errCode e).toNat ∈ cs) : RaisesIn (ensure c e) cs :=
  raisesIn_of_one (fun e' h => ((ensure_error c e e').mp h).2.symm) he

theorem chk_raisesIn (v : Int) (he : 2 ∈ cs) : RaisesIn (chk v) cs :=
  raisesIn_of_one (e := .ovf) (fun e h => ((chk_error v e).mp h).2) he

theorem tsChk_raisesIn (u : Int) (he : 2 ∈ cs) : RaisesIn (tsChk u) cs :=
  raisesIn_of_one (e := .ovf) (fun e h => (tsChk_error u e h).1) he

theorem needWf_raisesIn (t : Timestamp) (he : 4 ∈ cs) : RaisesIn (needWf t) cs := ensure_raisesIn (tsWf t) he

theorem needWindow_raisesIn (s : State) (off n : Nat) (he : 5 ∈ cs) : RaisesIn (needWindow s off n) cs := ensure_raisesIn _ he

theorem needHeader_raisesIn (s : State) (he : 7 ∈ cs) : RaisesIn (needHeader s) cs := ensure_raisesIn _ he

theorem cfgState_raisesIn (x : Context) (he : 9 ∈ cs) : RaisesIn (cfgState x) cs := ensure_raisesIn _ he

theorem needGeneral_raisesIn (i : TmrId) (he : 9 ∈ cs) : RaisesIn (needGeneral i) cs := ensure_raisesIn _ he

theorem checkedDiff_raisesIn (a b : Timestamp) (he : 4 ∈ cs) : RaisesIn (checkedDiff a b) cs :=
  raisesIn_of_one (e := .operand) (fun e h => ((checkedDiff_error a b e).mp h).2.symm) he

theorem leapCalc_raisesIn (g : LeapConfig) (t : Timestamp) (he : 2 ∈ cs) : RaisesIn (leapCalc g t) cs := by
  refine raisesIn_of_one (e := .ovf) (fun e h => ?_) he
  obtain ⟨hok, hovf⟩ := leapCalc_answers g t
  by_cases hfits : FitsUtc (leapRule g (tsSec t)).1
  · exact nomatch (hok hfits).symm.trans h
  · exact Except.error.inj (h.symm.trans (hovf hfits))

theorem arm_raisesIn (i : TmrId) (ticks : Nat) (rep : Bool) (s : State) (he : 2 ∈ cs) : RaisesIn (arm i ticks rep s) cs :=
  raisesIn_of_one (e := .ovf) (fun e h => ((arm_error i ticks rep s e).mp h).2) he

theorem fltStep_raisesIn (F : Filter) (x : TimeInterval) (hcfg : 9 ∈ cs) (hovf : 2 ∈ cs) : RaisesIn (fltStep F x) cs := fun e h => by
  obtain ⟨rfl, -⟩ | ⟨rfl, -⟩ := fltStep_error F x e h
  · exact hcfg
  · exact hovf

theorem expiredTimer_raisesIn (t : Timer) (now : Nat) (hcfg : 9 ∈ cs) (hovf : 2 ∈ cs) : RaisesIn (expiredTimer t now) cs := fun e h => by
  obtain ⟨-, ⟨rfl, -⟩ | rfl⟩ := expiredTimer_error t now e h
  · exact hcfg
  · exact hovf

theorem tickOne_raisesIn (now : Nat) (acc : State × Bool) (i : TmrId) (hcfg : 9 ∈ cs) (hovf : 2 ∈ cs) :
    RaisesIn (tickOne now acc i) cs := by
  obtain ⟨s, fired⟩ := acc
  exact raisesIn_ite (raisesIn_pure _) (raisesIn_ite
    (raisesIn_bind (expiredTimer_raisesIn s.tm[i] now hcfg hovf) fun _ => raisesIn_pure _) (raisesIn_pure _))

theorem foldlM_raisesIn {f : β → α → Result β} (hf : ∀ b a, RaisesIn (f b a) cs) (as : List α) (b : β) :
    RaisesIn (as.foldlM f b) cs := by
  induction as generalizing b with
  | nil => exact raisesIn_pure b
  | cons a as ih =>
    rw [List.foldlM_cons]
    exact raisesIn_bind (hf b a) ih

end

/-! The commands. -/

/-- Whenever the command fails, the code is one its row of R350 lists. -/
def FailsByRule (i : Instr) : Prop := ∀ s t, Answers i s t → t.status.ok = false → t.status.err.toNat ∈ errorsOf i

theorem not_failed {t : State} {P : Prop} (hok : t.status.ok = true) (hfail : t.status.ok = false) : P :=
  absurd hok (Bool.eq_false_iff.mp hfail)

theorem failsByRule_of_raisesIn {i : Instr} {body : Body} (cs : List Nat) (hrow : errorsOf i = cs)
    (hi : ∀ s, exec i s = command body s) (h : ∀ s, RaisesIn (body s) cs) : FailsByRule i := fun s t ht hfail => by
  rw [Answers, hi, command_next] at ht
  rcases ht with ⟨u, v, -, rfl⟩ | ⟨e, he, rfl⟩
  · exact not_failed rfl hfail
  · exact hrow ▸ h s e he

/-- A pseudocode that cannot raise. -/
theorem failsByRule_plain {i : Instr} {f : State → State} (hi : ∀ s, exec i s = command (plain f) s) : FailsByRule i :=
  failsByRule_of_raisesIn (errorsOf i) rfl hi fun s => raisesIn_pure (f s, false)

theorem failsByRule_toTi {i : Instr} {d : TiReg} {f : State → Result TimeInterval} (cs : List Nat) (hrow : errorsOf i = cs)
    (hi : ∀ s, exec i s = command (toTi d f) s) (h : ∀ s, RaisesIn (f s) cs) : FailsByRule i :=
  failsByRule_of_raisesIn cs hrow hi fun s => raisesIn_bind (h s) fun _ => raisesIn_pure _

/-! The servo commands (R266 to R292). -/

theorem svDelay_failsByRule (c : CtxId) (a b : TsReg) (k : TiReg) : FailsByRule (.svDelay c a b k) := fun s t ht hfail => by
  rcases svDelay_next c a b k s t ht with ⟨e, rfl, he⟩ | ⟨-, rfl⟩ | ⟨F, ⟨-, -, rfl⟩ | ⟨y, -, -, rfl⟩⟩
  · change (errCode e).toNat ∈ [2, 4, 8, 9, 10]
    rcases he with rfl | rfl | rfl | rfl | rfl <;> decide
  all_goals exact not_failed rfl hfail

theorem svOffset_failsByRule (c : CtxId) (a b : TsReg) (k : TiReg) : FailsByRule (.svOffset c a b k) := fun s t ht hfail => by
  rcases svOffset_next c a b k s t ht with ⟨e, rfl, he⟩ | ⟨-, -, hends⟩
  · change (errCode e).toNat ∈ [2, 4, 8, 9, 10]
    rcases he with rfl | rfl | rfl | rfl | rfl <;> decide
  · rcases hends with ⟨-, -, rfl⟩ | ⟨-, -, u, -, rfl⟩ | ⟨-, -, F, ⟨-, rfl⟩ | ⟨y, u, -, -, rfl⟩⟩ <;> exact not_failed rfl hfail

theorem svPid_failsByRule (c : CtxId) (o : TiReg) (n : TsReg) : FailsByRule (.svPid c o n) := fun s t ht hfail => by
  rcases svPid_next c o n s t ht with ⟨e, rfl, he⟩ | ⟨-, -, rfl⟩ | ⟨u, -, -, -, -, rfl⟩
  · change (errCode e).toNat ∈ [2, 4, 9, 10]
    rcases he with rfl | rfl | rfl | rfl <;> decide
  all_goals exact not_failed rfl hfail

theorem svSwitch_failsByRule : FailsByRule .svSwitch := by
  refine failsByRule_of_raisesIn [2, 9] rfl exec_svSwitch fun s => ?_
  refine raisesIn_bind (cfgState_raisesIn _ (by decide)) fun _ => raisesIn_ite ?_ (raisesIn_pure _)
  exact raisesIn_bind (arm_raisesIn _ _ _ _ (by decide)) fun _ => raisesIn_pure _

theorem svLost_failsByRule (c : CtxId) : FailsByRule (.svLost c) := fun s t ht hfail => by
  rcases svLost_next c s t ht with ⟨e, rfl, he⟩ | ⟨-, -, u, -, rfl⟩
  · change (errCode e).toNat ∈ [2, 9, 10]
    rcases he with rfl | rfl | rfl <;> decide
  · exact not_failed rfl hfail

/-! The commands with several checks (R174, R178, R196, R220 to R243). -/

theorem fltStep_failsByRule (x : CtxId) (y : FltId) (a d : TiReg) : FailsByRule (.fltStep x y a d) := by
  refine failsByRule_of_raisesIn [2, 9] rfl (fun _ => rfl) fun s => ?_
  refine raisesIn_bind (fltStep_raisesIn _ _ (by decide) (by decide)) fun p => ?_
  obtain ⟨F, _ | v⟩ := p <;> exact raisesIn_pure _

theorem tmStart_failsByRule (k : TmrId) (a : TiReg) (rep : Bool) : FailsByRule (.tmStart k a rep) := by
  refine failsByRule_of_raisesIn [2, 4, 9] rfl (fun _ => rfl) fun s => ?_
  refine raisesIn_bind (needGeneral_raisesIn k (by decide)) fun _ => raisesIn_bind (ensure_raisesIn _ (by decide)) fun _ => ?_
  refine raisesIn_bind (ensure_raisesIn _ (by decide)) fun _ => raisesIn_bind (ensure_raisesIn _ (by decide)) fun _ => ?_
  exact raisesIn_bind (arm_raisesIn _ _ _ s (by decide)) fun _ => raisesIn_pure _

theorem tmTick_failsByRule (a : TiReg) : FailsByRule (.tmTick a) := by
  refine failsByRule_of_raisesIn [2, 4, 9] rfl (exec_tmTick a) fun s => raisesIn_bind (ensure_raisesIn _ (by decide)) fun _ => ?_
  have hvisit := fun acc i => tickOne_raisesIn (cs := [2, 4, 9]) (tiNat s a) acc i (by decide) (by decide)
  exact raisesIn_bind (foldlM_raisesIn hvisit allTimers _) fun _ => raisesIn_pure _

theorem pkAnn_failsByRule (a : TsReg) : FailsByRule (.pkAnn a) := by
  refine failsByRule_of_raisesIn [2, 4, 5] rfl (fun _ => rfl) fun s => ?_
  refine raisesIn_bind (needWindow_raisesIn s _ _ (by decide)) fun _ => raisesIn_bind (needWf_raisesIn _ (by decide)) fun _ => ?_
  exact raisesIn_ite (raisesIn_bind (leapCalc_raisesIn _ _ (by decide)) fun _ => raisesIn_pure _) (raisesIn_pure _)

/-- The checks of `PK.TS` and `PK.PD` (R220, R224). -/
theorem bodyChecks_raisesIn {s : State} {off n : Nat} {t : Timestamp} {p : State × Bool} :
    RaisesIn (do needHeader s; needWindow s off n; needWf t; pure p) [4, 5, 7] :=
  raisesIn_bind (needHeader_raisesIn s (by decide)) fun _ => raisesIn_bind (needWindow_raisesIn s off n (by decide)) fun _ =>
    raisesIn_bind (needWf_raisesIn t (by decide)) fun _ => raisesIn_pure p

theorem upTlv_failsByRule : FailsByRule .upTlv := by
  refine failsByRule_of_raisesIn [5, 6] rfl (fun _ => rfl) fun s => ?_
  refine raisesIn_bind (needWindow_raisesIn s _ _ (by decide)) fun _ => raisesIn_bind (ensure_raisesIn _ (by decide)) fun _ => ?_
  exact raisesIn_bind (needWindow_raisesIn s _ _ (by decide)) fun _ => raisesIn_pure _

theorem failsByRule (i : Instr) : FailsByRule i := by
  cases i with
  | svDelay c a b k => exact svDelay_failsByRule c a b k
  | svOffset c a b k => exact svOffset_failsByRule c a b k
  | svPid c o n => exact svPid_failsByRule c o n
  | svSwitch => exact svSwitch_failsByRule
  | svLost c => exact svLost_failsByRule c
  | fltStep x y a d => exact fltStep_failsByRule x y a d
  | tmStart k a rep => exact tmStart_failsByRule k a rep
  | tmTick a => exact tmTick_failsByRule a
  | pkAnn a => exact pkAnn_failsByRule a
  | upTlv => exact upTlv_failsByRule
  | nop | sysReset | tiMov _ _ | tiHalf _ _ | tiToNs _ _ | tiCmp _ _ | tsMov _ _ | fltReset _ _ | svReset _ | svStat _
  | ccFreq _ _ | ccDelta _ _ | ccPhase _ _ | ccGetTime _ _ => exact failsByRule_plain fun _ => rfl
  | tiAdd _ _ _ | tiSub _ _ _ | tiNeg _ _ | tiAbs _ _ | tiFromNs _ _ | tiMulI _ _ _ =>
    exact failsByRule_toTi [2] rfl (fun _ => rfl) fun _ => chk_raisesIn _ (by decide)
  | tiDivI _ _ _ =>
    refine failsByRule_toTi [3] rfl (fun _ => rfl) fun _ => ?_
    exact raisesIn_bind (ensure_raisesIn _ (by decide)) fun _ => raisesIn_pure _
  | tsSub _ _ _ =>
    refine failsByRule_toTi [2, 4] rfl (fun _ => rfl) fun _ => ?_
    exact raisesIn_bind (checkedDiff_raisesIn _ _ (by decide)) fun _ => chk_raisesIn _ (by decide)
  | tsDiffC _ _ _ _ =>
    refine failsByRule_toTi [2, 4] rfl (fun _ => rfl) fun _ => ?_
    exact raisesIn_bind (checkedDiff_raisesIn _ _ (by decide)) fun _ =>
      raisesIn_bind (chk_raisesIn _ (by decide)) fun _ => chk_raisesIn _ (by decide)
  | tsAddI _ _ _ =>
    refine failsByRule_of_raisesIn [2, 4] rfl (fun _ => rfl) fun _ => ?_
    exact raisesIn_bind (needWf_raisesIn _ (by decide)) fun _ => raisesIn_bind (tsChk_raisesIn _ (by decide)) fun _ => raisesIn_pure _
  | ccSetTime _ _ =>
    refine failsByRule_of_raisesIn [4] rfl (fun _ => rfl) fun _ => ?_
    exact raisesIn_bind (needWf_raisesIn _ (by decide)) fun _ => raisesIn_pure _
  | pkHdr | upHdr | upTs _ | upPd _ _ | upAnn _ | upSig _ =>
    refine failsByRule_of_raisesIn [5] rfl (fun _ => rfl) fun s => ?_
    exact raisesIn_bind (needWindow_raisesIn s _ _ (by decide)) fun _ => raisesIn_pure _
  | pkTlv =>
    refine failsByRule_of_raisesIn [5] rfl (fun _ => rfl) fun s => ?_
    exact raisesIn_bind (needWindow_raisesIn s _ _ (by decide)) fun _ =>
      raisesIn_bind (ensure_raisesIn _ (by decide)) fun _ => raisesIn_pure _
  | pkTs _ | pkPd _ _ => exact failsByRule_of_raisesIn [4, 5, 7] rfl (fun _ => rfl) fun _ => bodyChecks_raisesIn
  | pkSig _ =>
    refine failsByRule_of_raisesIn [5, 7] rfl (fun _ => rfl) fun s => ?_
    exact raisesIn_bind (needHeader_raisesIn s (by decide)) fun _ =>
      raisesIn_bind (needWindow_raisesIn s _ _ (by decide)) fun _ => raisesIn_pure _
  | tmInit k _ =>
    refine failsByRule_of_raisesIn [9] rfl (fun _ => rfl) fun _ => ?_
    exact raisesIn_bind (needGeneral_raisesIn k (by decide)) fun _ =>
      raisesIn_bind (ensure_raisesIn _ (by decide)) fun _ => raisesIn_pure _
  | tmStop k =>
    refine failsByRule_of_raisesIn [9] rfl (fun _ => rfl) fun _ => ?_
    exact raisesIn_bind (needGeneral_raisesIn k (by decide)) fun _ => raisesIn_ite (raisesIn_pure _) (raisesIn_pure _)

/-- Settles O16: by the command, the checks of its pseudocode are those its row lists. -/
theorem errorCodes : Obligations.ErrorCodes := by
  unfold Obligations.ErrorCodes
  exact failsByRule

end Sys2Proof.Machine
end
